-- ==== Sys2Proof/Machine/Params.lean ====
section
/-! DEFINITION. The configuration of this hardware: every parameter of 00_scope.md R5 that has one fixed value,
each a field, its value in one place (R6: the literals of the source are unaudited). The parameters with a
choice, the OPEN ones and the launch values are fields of `Config` and `Launch` (Config.lean). -/

namespace Sys2Proof

/-- The fixed parameters of 00_scope.md R5. A register V holds a byte, the unit of memory and of `kk`
(10_state.md R21), so its width is no field of its own. -/
structure Params where
  /-- `MEM_SIZE`: the number of bytes of memory (20_memory.md R61) -/
  memSize : Nat
  /-- `MEM_CEILING`: a fetch may not begin at or above it (40_cycle.md R113) -/
  memCeiling : Nat
  /-- `PROG_BASE`: where the image is loaded and execution starts (20_memory.md R66) -/
  progBase : Nat
  /-- `FONT_BASE` (20_memory.md R62) -/
  fontBase : Nat
  /-- `FONT_GLYPHS` (20_memory.md R62) -/
  fontGlyphs : Nat
  /-- `FONT_GLYPH_BYTES` (20_memory.md R64; 43_index_memory.md R193) -/
  fontGlyphBytes : Nat
  /-- `NUM_V`: the number of general registers (10_state.md R21) -/
  numV : Nat
  /-- `FLAG_REG`: the number of VF (10_state.md R22) -/
  flagReg : Nat
  /-- `I_WIDTH` (10_state.md R28) -/
  iWidth : Nat
  /-- `PC_WIDTH` (10_state.md R24) -/
  pcWidth : Nat
  /-- `STACK_ENTRY_WIDTH` (10_state.md R29) -/
  stackEntryWidth : Nat
  /-- `TIMER_WIDTH` (10_state.md R33) -/
  timerWidth : Nat
  /-- `NUM_KEYS` (10_state.md R35) -/
  numKeys : Nat
  /-- `DISP_W`: columns (10_state.md R37) -/
  dispW : Nat
  /-- `DISP_H`: rows (10_state.md R37) -/
  dispH : Nat
deriving DecidableEq, Repr

/-- The values this hardware takes (00_scope.md R5). Two widths that meet in a rule (the pc pushed on the
stack, a register moved into a timer) must agree, which the types check. -/
@[reducible] def params : Params :=
  { memSize := 4095
    memCeiling := 0xFFF
    progBase := 0x200
    fontBase := 0x000
    fontGlyphs := 16
    fontGlyphBytes := 5
    numV := 16
    flagReg := 15
    iWidth := 16
    pcWidth := 16
    stackEntryWidth := 16
    timerWidth := 8
    numKeys := 16
    dispW := 64
    dispH := 32 }

end Sys2Proof
end

