-- ==== Sys2Proof/Word.lean ====
section
/-! DEFINITION. The word types of the c8xx-ISA (00_scope.md R5, R7, R9): all values are unsigned. -/

namespace Sys2Proof

/-- A memory byte, a general register or the immediate `kk` (10_state.md R21). -/
abbrev Byte := BitVec 8

/-- An instruction word (30_encoding.md R86). -/
abbrev Word := BitVec 16

/-- A value of the address register `I`, `I_WIDTH` bits (10_state.md R28). -/
abbrev IWord := BitVec params.iWidth

/-- A value of `pc`, `PC_WIDTH` bits (10_state.md R24). -/
abbrev PcWord := BitVec params.pcWidth

/-- A return address on the call stack, `STACK_ENTRY_WIDTH` bits (10_state.md R29). -/
abbrev StackEntry := BitVec params.stackEntryWidth

/-- A value of DT or ST, `TIMER_WIDTH` bits (10_state.md R33). -/
abbrev Timer := BitVec params.timerWidth

/-- The 12-bit address operand `nnn` (30_encoding.md R87). -/
abbrev Addr := BitVec 12

/-- A packed 32-bit colour, of unknown packing (10_state.md R39). -/
abbrev Colour := BitVec 32

/-- The number of a general register; every index is in range (10_state.md R21). -/
abbrev Reg := Fin params.numV

/-- The number of a hex key, one of `NUM_KEYS` (10_state.md R35; 40_cycle.md R126). -/
abbrev Key := Fin params.numKeys

/-- The linear index of a pixel of the display, `DISP_W` by `DISP_H` (10_state.md R37). -/
abbrev Pixel := Fin (params.dispW * params.dispH)

/-- `FLAG_REG`: the number of VF (00_scope.md R5; 10_state.md R22). -/
abbrev flagReg : Reg := Fin.ofNat params.numV params.flagReg

end Sys2Proof
end

