-- ==== Sys2Proof/Syntax.lean ====
section
/-! DEFINITION. The 34 instructions of 30_encoding.md R92, in the order of spec/opcode_table.json. A field
the spec ignores (30_encoding.md R93, R96; 42_alu.md R170, R172) is no operand. -/

namespace Sys2Proof

/-- One constructor per row of spec/opcode_table.json; the word each stands for is in its comment. -/
inductive Instr where
  /-- 00E0 `CLS` (R212) -/
  | cls
  /-- 00EE `RET` (R136) -/
  | ret
  /-- 1nnn `JP nnn` (R137) -/
  | jp (nnn : Addr)
  /-- 2nnn `CALL nnn` (R138) -/
  | call (nnn : Addr)
  /-- 3xkk `SE Vx, kk` (R139) -/
  | seImm (x : Reg) (kk : Byte)
  /-- 4xkk `SNE Vx, kk` (R140) -/
  | sneImm (x : Reg) (kk : Byte)
  /-- 5xyn `SE Vx, Vy` (R141) -/
  | seReg (x y : Reg)
  /-- 6xkk `LD Vx, kk` (R161) -/
  | ldImm (x : Reg) (kk : Byte)
  /-- 7xkk `ADD Vx, kk` (R162) -/
  | addImm (x : Reg) (kk : Byte)
  /-- 8xy0 `LD Vx, Vy` (R164) -/
  | ldReg (x y : Reg)
  /-- 8xy1 `OR Vx, Vy` (R165) -/
  | orReg (x y : Reg)
  /-- 8xy2 `AND Vx, Vy` (R166) -/
  | andReg (x y : Reg)
  /-- 8xy3 `XOR Vx, Vy` (R167) -/
  | xorReg (x y : Reg)
  /-- 8xy4 `ADD Vx, Vy` (R168) -/
  | addReg (x y : Reg)
  /-- 8xy5 `SUB Vx, Vy` (R169) -/
  | sub (x y : Reg)
  /-- 8xy6 `SHR Vx` (R170) -/
  | shr (x : Reg)
  /-- 8xy7 `SUBN Vx, Vy` (R171) -/
  | subn (x y : Reg)
  /-- 8xyE `SHL Vx` (R172) -/
  | shl (x : Reg)
  /-- 9xyn `SNE Vx, Vy` (R142) -/
  | sneReg (x y : Reg)
  /-- Annn `LD I, nnn` (R191) -/
  | ldI (nnn : Addr)
  /-- Bnnn `JP V0, nnn` (R143) -/
  | jpV0 (nnn : Addr)
  /-- Cxkk `RND Vx, kk` (R181) -/
  | rnd (x : Reg) (kk : Byte)
  /-- Dxyn `DRW Vx, Vy, n` (R213); `n` counts the rows -/
  | drw (x y : Reg) (n : Fin 16)
  /-- Ex9E `SKP Vx` (R234) -/
  | skp (x : Reg)
  /-- ExA1 `SKNP Vx` (R235) -/
  | sknp (x : Reg)
  /-- Fx07 `LD Vx, DT` (R231) -/
  | ldVDt (x : Reg)
  /-- Fx0A `LD Vx, K` (R236) -/
  | ldVK (x : Reg)
  /-- Fx15 `LD DT, Vx` (R232) -/
  | ldDtV (x : Reg)
  /-- Fx18 `LD ST, Vx` (R233) -/
  | ldStV (x : Reg)
  /-- Fx1E `ADD I, Vx` (R192) -/
  | addI (x : Reg)
  /-- Fx29 `LD F, Vx` (R193) -/
  | ldF (x : Reg)
  /-- Fx33 `LD B, Vx` (R194) -/
  | ldB (x : Reg)
  /-- Fx55 `LD [I], Vx` (R195) -/
  | ldMemV (x : Reg)
  /-- Fx65 `LD Vx, [I]` (R196) -/
  | ldVMem (x : Reg)
deriving DecidableEq, Repr

end Sys2Proof
end

