-- ==== Sys2Proof/WellFormed.lean ====
section
/-! DEFINITION. Which 16-bit words are instructions: the illegal space of 30_encoding.md R98, transcribed
from its table and independent of the decoder. The operands of `Instr` carry their widths in their types
(10_state.md R21: a register index is always in range), so every term of `Instr` is well-formed; what can be
ill-formed is a word. -/

namespace Sys2Proof

/-- Family 0 (R93): the low byte alone selects CLS or RET. -/
def family0Legal (kk : Byte) : Bool := kk == 0xE0#8 || kk == 0xEE#8

/-- Family 8 (R94): low nibbles 8 to D and F name no operation. -/
def family8Legal (n : BitVec 4) : Bool := n.toNat < 8 || n == 0xE#4

/-- Family 0xE (R95): the two key skips. -/
def familyELegal (kk : Byte) : Bool := kk == 0x9E#8 || kk == 0xA1#8

/-- Family 0xF (R95): the nine listed low bytes. -/
def familyFLegal (kk : Byte) : Bool :=
  [0x07#8, 0x0A#8, 0x15#8, 0x18#8, 0x1E#8, 0x29#8, 0x33#8, 0x55#8, 0x65#8].contains kk

/-- A well-formed word is one that R98 does not list as illegal. -/
def wellFormedWord (w : Word) : Bool :=
  match w.extractLsb' 12 4 with
  | 0x0#4 => family0Legal (w.extractLsb' 0 8)
  | 0x8#4 => family8Legal (w.extractLsb' 0 4)
  | 0xE#4 => familyELegal (w.extractLsb' 0 8)
  | 0xF#4 => familyFLegal (w.extractLsb' 0 8)
  | _ => true

end Sys2Proof
end

