-- ==== Sys2Proof/Decode.lean ====
section
/-! DEFINITION. The decoder of 30_encoding.md R88 to R96, total on bytes, and the encoder after it. -/

namespace Sys2Proof

/-- Why bytes are no instruction: the word R98 makes unrecognized, or fewer than the two bytes of R86. -/
inductive DecodeError where
  | unrecognized (w : Word)
  | truncated
deriving DecidableEq, Repr

/-- The fields of a word (30_encoding.md R87). -/
structure Fields where
  word : Word
  family : BitVec 4
  x : BitVec 4
  y : BitVec 4
  n : BitVec 4
  kk : Byte
  nnn : Addr
deriving DecidableEq, Repr

/-- The byte swap of R88. -/
def swapBytes (w : Word) : Word := w.extractLsb' 0 8 ++ w.extractLsb' 8 8

/-- `Decode(w, swapped)` of R88: total, no side effects (R89). -/
def decodeFields (w : Word) (swapped : Bool) : Fields :=
  let w := if swapped then swapBytes w else w
  { word := w
    family := w.extractLsb' 12 4
    x := w.extractLsb' 8 4
    y := w.extractLsb' 4 4
    n := w.extractLsb' 0 4
    kk := w.extractLsb' 0 8
    nnn := w.extractLsb' 0 12 }

/-- A 4-bit field read as a register number or a count. -/
def nibble (b : BitVec 4) : Fin 16 := b.toFin

/-- Family 8 by its low nibble (R94). -/
def dispatchAlu (d : Fields) : Except DecodeError Instr :=
  match d.n with
  | 0x0#4 => .ok (.ldReg (nibble d.x) (nibble d.y))
  | 0x1#4 => .ok (.orReg (nibble d.x) (nibble d.y))
  | 0x2#4 => .ok (.andReg (nibble d.x) (nibble d.y))
  | 0x3#4 => .ok (.xorReg (nibble d.x) (nibble d.y))
  | 0x4#4 => .ok (.addReg (nibble d.x) (nibble d.y))
  | 0x5#4 => .ok (.sub (nibble d.x) (nibble d.y))
  | 0x6#4 => .ok (.shr (nibble d.x))
  | 0x7#4 => .ok (.subn (nibble d.x) (nibble d.y))
  | 0xE#4 => .ok (.shl (nibble d.x))
  | _ => .error (.unrecognized d.word)

/-- Family 0xF by its low byte (R95). -/
def dispatchMisc (d : Fields) : Except DecodeError Instr :=
  match d.kk with
  | 0x07#8 => .ok (.ldVDt (nibble d.x))
  | 0x0A#8 => .ok (.ldVK (nibble d.x))
  | 0x15#8 => .ok (.ldDtV (nibble d.x))
  | 0x18#8 => .ok (.ldStV (nibble d.x))
  | 0x1E#8 => .ok (.addI (nibble d.x))
  | 0x29#8 => .ok (.ldF (nibble d.x))
  | 0x33#8 => .ok (.ldB (nibble d.x))
  | 0x55#8 => .ok (.ldMemV (nibble d.x))
  | 0x65#8 => .ok (.ldVMem (nibble d.x))
  | _ => .error (.unrecognized d.word)

/-- Family 0 by its low byte; bits 11..8 are not examined (R93). -/
def dispatchZero (d : Fields) : Except DecodeError Instr :=
  match d.kk with
  | 0xE0#8 => .ok .cls
  | 0xEE#8 => .ok .ret
  | _ => .error (.unrecognized d.word)

/-- Family 0xE by its low byte (R95). -/
def dispatchKey (d : Fields) : Except DecodeError Instr :=
  match d.kk with
  | 0x9E#8 => .ok (.skp (nibble d.x))
  | 0xA1#8 => .ok (.sknp (nibble d.x))
  | _ => .error (.unrecognized d.word)

/-- The dispatch of R92 on the family; families 5 and 9 ignore `n` (R96). -/
def dispatch (d : Fields) : Except DecodeError Instr :=
  match d.family with
  | 0x0#4 => dispatchZero d
  | 0x1#4 => .ok (.jp d.nnn)
  | 0x2#4 => .ok (.call d.nnn)
  | 0x3#4 => .ok (.seImm (nibble d.x) d.kk)
  | 0x4#4 => .ok (.sneImm (nibble d.x) d.kk)
  | 0x5#4 => .ok (.seReg (nibble d.x) (nibble d.y))
  | 0x6#4 => .ok (.ldImm (nibble d.x) d.kk)
  | 0x7#4 => .ok (.addImm (nibble d.x) d.kk)
  | 0x8#4 => dispatchAlu d
  | 0x9#4 => .ok (.sneReg (nibble d.x) (nibble d.y))
  | 0xA#4 => .ok (.ldI d.nnn)
  | 0xB#4 => .ok (.jpV0 d.nnn)
  | 0xC#4 => .ok (.rnd (nibble d.x) d.kk)
  | 0xD#4 => .ok (.drw (nibble d.x) (nibble d.y) (nibble d.n))
  | 0xE#4 => dispatchKey d
  | _ => dispatchMisc d

/-- The engine decodes the word it fetched, unswapped (R90). -/
def decodeWord (w : Word) : Except DecodeError Instr := dispatch (decodeFields w false)

/-- A fetch joins two bytes, the first in bits 15..8 (20_memory.md R67). -/
def joinBytes (hi lo : Byte) : Word := hi ++ lo

/-- The decoder over bytes: the first instruction and the bytes after it. -/
def decodeBytes : List Byte → Except DecodeError (Instr × List Byte)
  | hi :: lo :: rest =>
    match decodeWord (joinBytes hi lo) with
    | .ok i => .ok (i, rest)
    | .error e => .error e
  | _ => .error .truncated

/-- A register number or count as a 4-bit field. -/
def field4 (r : Fin 16) : BitVec 4 := BitVec.ofFin r

/-- A word from a family and a 12-bit operand. -/
def wordNnn (family : BitVec 4) (nnn : Addr) : Word := family ++ nnn

/-- A word from a family, a register and a low byte. -/
def wordXkk (family : BitVec 4) (x : Reg) (kk : Byte) : Word := family ++ (field4 x ++ kk)

/-- A word from a family, two registers and a low nibble. -/
def wordXyn (family : BitVec 4) (x y : Reg) (n : BitVec 4) : Word :=
  wordXkk family x (field4 y ++ n)

/-- The word of an instruction (30_encoding.md R92, R100); ignored fields are written as zero. -/
def encode : Instr → Word
  | .cls => wordXkk 0x0#4 0 0xE0#8
  | .ret => wordXkk 0x0#4 0 0xEE#8
  | .jp nnn => wordNnn 0x1#4 nnn
  | .call nnn => wordNnn 0x2#4 nnn
  | .seImm x kk => wordXkk 0x3#4 x kk
  | .sneImm x kk => wordXkk 0x4#4 x kk
  | .seReg x y => wordXyn 0x5#4 x y 0x0#4
  | .ldImm x kk => wordXkk 0x6#4 x kk
  | .addImm x kk => wordXkk 0x7#4 x kk
  | .ldReg x y => wordXyn 0x8#4 x y 0x0#4
  | .orReg x y => wordXyn 0x8#4 x y 0x1#4
  | .andReg x y => wordXyn 0x8#4 x y 0x2#4
  | .xorReg x y => wordXyn 0x8#4 x y 0x3#4
  | .addReg x y => wordXyn 0x8#4 x y 0x4#4
  | .sub x y => wordXyn 0x8#4 x y 0x5#4
  | .shr x => wordXyn 0x8#4 x 0 0x6#4
  | .subn x y => wordXyn 0x8#4 x y 0x7#4
  | .shl x => wordXyn 0x8#4 x 0 0xE#4
  | .sneReg x y => wordXyn 0x9#4 x y 0x0#4
  | .ldI nnn => wordNnn 0xA#4 nnn
  | .jpV0 nnn => wordNnn 0xB#4 nnn
  | .rnd x kk => wordXkk 0xC#4 x kk
  | .drw x y n => wordXyn 0xD#4 x y (field4 n)
  | .skp x => wordXkk 0xE#4 x 0x9E#8
  | .sknp x => wordXkk 0xE#4 x 0xA1#8
  | .ldVDt x => wordXkk 0xF#4 x 0x07#8
  | .ldVK x => wordXkk 0xF#4 x 0x0A#8
  | .ldDtV x => wordXkk 0xF#4 x 0x15#8
  | .ldStV x => wordXkk 0xF#4 x 0x18#8
  | .addI x => wordXkk 0xF#4 x 0x1E#8
  | .ldF x => wordXkk 0xF#4 x 0x29#8
  | .ldB x => wordXkk 0xF#4 x 0x33#8
  | .ldMemV x => wordXkk 0xF#4 x 0x55#8
  | .ldVMem x => wordXkk 0xF#4 x 0x65#8

/-- The bits of a word that its instruction ignores (30_encoding.md R93, R96; 42_alu.md R170, R172). -/
def ignoredBits : Instr → Word
  | .cls => 0x0F00#16
  | .ret => 0x0F00#16
  | .seReg _ _ => 0x000F#16
  | .sneReg _ _ => 0x000F#16
  | .shr _ => 0x00F0#16
  | .shl _ => 0x00F0#16
  | _ => 0x0000#16

/-- The first byte of a word as memory holds it (20_memory.md R67). -/
def highByte (w : Word) : Byte := w.extractLsb' 8 8

/-- The second byte of a word as memory holds it. -/
def lowByte (w : Word) : Byte := w.extractLsb' 0 8

/-- The bytes of an instruction in memory order, most significant first (R67). -/
def encodeBytes (i : Instr) : List Byte := [highByte (encode i), lowByte (encode i)]

/-- The word whose bits spec/opcode_table.json numbers: bits at or above `nbits` are zero. -/
def tableWord (nbits w : Nat) : Word := BitVec.ofNat 16 (w % 2 ^ nbits)

/-- What the decoder reads from the bytes of a table row's word, laid out big-endian. -/
def decodeTableWord (nbits w : Nat) : Option Instr :=
  match decodeBytes [highByte (tableWord nbits w), lowByte (tableWord nbits w)] with
  | .ok (i, _) => some i
  | .error _ => none

end Sys2Proof
end

