-- ==== Sys2Proof/Config.lean ====
section
/-! DEFINITION. The parameters of 00_scope.md R5 that have a choice or are OPEN, and the free values; those
of one fixed value are the fields of `Params` (Machine/Params.lean).
`Config` is what a running machine reads; `Launch` is what `construct` reads once. The constants without a
body are the values the spec leaves free: nothing in Lean can evaluate them. -/

namespace Sys2Proof

/-- `NINE_SKIP_MODE` (41_control_flow.md R142, decision D7). -/
inductive NineSkipMode where
  | asWritten
  | conventional
deriving DecidableEq, Repr

/-- `NINE_FLAG` (41_control_flow.md R142, decision D35). -/
inductive NineFlag where
  | havoc
  | keep
deriving DecidableEq, Repr

/-- `SHL_FLAG_MODE` (42_alu.md R172, decision D8). -/
inductive ShlFlagMode where
  | asWritten
  | bit7
deriving DecidableEq, Repr

/-- `FX0A_RESUME` (45_timers_input.md R238, R239, decision D15). -/
inductive Fx0aResume where
  | advance
  | refetch
deriving DecidableEq, Repr

/-- The behaviour parameters and the two colours (00_scope.md R5). `stackCapacity = none` is the unbounded
stack of 10_state.md R29. DESIGN CHOICE (log 3): a state carries one of these, read-only. -/
structure Config where
  onColor : Colour
  offColor : Colour
  nineSkipMode : NineSkipMode
  nineFlag : NineFlag
  shlFlagMode : ShlFlagMode
  fx0aResume : Fx0aResume
  stackCapacity : Option Nat
deriving DecidableEq, Repr

/-- The launch parameters (00_scope.md R5; 70_reset_and_hazards.md R281, R282). `initMem` lists bytes of
`INIT_MEM` by address, the first entry of an address counting; `initCurWord` is the unspecified value of
`cur_word` before the first fetch (10_state.md R41). -/
structure Launch where
  font : Vector Byte (params.fontGlyphs * params.fontGlyphBytes)
  initV : Vector Byte params.numV
  initI : IWord
  initDt : Timer
  initSt : Timer
  initMem : List (Nat × Byte)
  initKeys : Vector Bool params.numKeys
  initCurWord : Word
deriving DecidableEq, Repr

/-- Free value: the `n`-th `draw8()` (42_alu.md R181; 41_control_flow.md R142; 40_cycle.md R125). -/
opaque Config.freeDraw8 : Nat → Byte

/-- Free value: at the `n`-th draw, how many of the writes a faulting instruction made before its fault are
in the faulted state (60_exceptions.md R261). -/
opaque Config.freeWritesLanded : Nat → Nat

/-- Free value: VF after a faulting Dxyn (44_display.md R213, "the pixels drawn before a fault and VF are
then unspecified"). -/
opaque Config.freeFlagAfterFault : Nat → Byte

/-- Free value: `ON_COLOR` of the machine after reset (10_state.md R39, decision D30). -/
opaque Config.freeOnColor : Colour

/-- Free value: `OFF_COLOR` of the machine after reset (10_state.md R39, decision D30). -/
opaque Config.freeOffColor : Colour

end Sys2Proof
end

