-- ==== Sys2Proof/Machine/Defaults.lean ====
section
/-! DEFINITION. The default font, the default choice of every parameter that has one, and the runner's launch
values (00_scope.md R5; 70_reset_and_hazards.md R282). -/

namespace Sys2Proof.Machine

/-- The default `FONT` of 20_memory.md R65, glyphs 0 to F in order. PRESUMED (log 8): the source gives no
font byte. -/
def fontBytes : List Byte :=
  [0xF0#8, 0x90#8, 0x90#8, 0x90#8, 0xF0#8] ++ [0x20#8, 0x60#8, 0x20#8, 0x20#8, 0x70#8] ++
  [0xF0#8, 0x10#8, 0xF0#8, 0x80#8, 0xF0#8] ++ [0xF0#8, 0x10#8, 0xF0#8, 0x10#8, 0xF0#8] ++
  [0x90#8, 0x90#8, 0xF0#8, 0x10#8, 0x10#8] ++ [0xF0#8, 0x80#8, 0xF0#8, 0x10#8, 0xF0#8] ++
  [0xF0#8, 0x80#8, 0xF0#8, 0x90#8, 0xF0#8] ++ [0xF0#8, 0x10#8, 0x20#8, 0x40#8, 0x40#8] ++
  [0xF0#8, 0x90#8, 0xF0#8, 0x90#8, 0xF0#8] ++ [0xF0#8, 0x90#8, 0xF0#8, 0x10#8, 0xF0#8] ++
  [0xF0#8, 0x90#8, 0xF0#8, 0x90#8, 0x90#8] ++ [0xE0#8, 0x90#8, 0xE0#8, 0x90#8, 0xE0#8] ++
  [0xF0#8, 0x80#8, 0x80#8, 0x80#8, 0xF0#8] ++ [0xE0#8, 0x90#8, 0x90#8, 0x90#8, 0xE0#8] ++
  [0xF0#8, 0x80#8, 0xF0#8, 0x80#8, 0xF0#8] ++ [0xF0#8, 0x80#8, 0xF0#8, 0x80#8, 0x80#8]

/-- The behaviour parameters at their defaults; the colours are OPEN and stay free (log 3, log 4). -/
def hardware : Config :=
  { onColor := Config.freeOnColor
    offColor := Config.freeOffColor
    nineSkipMode := .asWritten
    nineFlag := .havoc
    shlFlagMode := .asWritten
    fx0aResume := .advance
    stackCapacity := none }

/-- The runner's defaults of 70_reset_and_hazards.md R282. DESIGN CHOICE (log 5, 6, 7, 9): the spec leaves
every one of these values open. -/
def runner : Launch :=
  { font := Vector.ofFn (fun k => fontBytes.getD k.val 0#8)
    initV := Vector.replicate params.numV 0#8
    initI := 0
    initDt := 0
    initSt := 0
    initMem := []
    initKeys := Vector.replicate params.numKeys false
    initCurWord := 0#16 }

end Sys2Proof.Machine
end

