-- ==== Sys2Proof/Machine/Memory.lean ====
section
/-! DEFINITION. Memory: the bytes that differ from their reset contents, as (address, byte) pairs in
canonical form (20_memory.md R61, R62, R68, R69). -/

namespace Sys2Proof.Machine

/-- Memory as a list of cells, addresses rising, none equal to what its address reads as when unlisted. -/
abbrev Mem := List Host.Cell

/-- What an unlisted address reads as: the default font from `FONT_BASE` on (20_memory.md R65; PRESUMED, log 8)
and `INIT_MEM` = 0 elsewhere (the runner's default; DESIGN CHOICE, log 7). -/
def background (a : Nat) : Byte :=
  if params.fontBase ≤ a then fontBytes.getD (a - params.fontBase) 0#8 else 0#8

/-- Whether an address exists (20_memory.md R61, R68). -/
def addrExists (a : Nat) : Bool := a < params.memSize

/-- The byte at an address. -/
def Mem.read : Mem → Nat → Byte
  | [], a => background a
  | (k, b) :: rest, a => if k = a then b else Mem.read rest a

/-- Drop the cells of an address. -/
def Mem.erase (a : Nat) : Mem → Mem
  | [] => []
  | (k, b) :: rest => if k = a then Mem.erase a rest else (k, b) :: Mem.erase a rest

/-- Put a cell before the first cell of a higher address. -/
def Mem.insert (a : Nat) (b : Byte) : Mem → Mem
  | [] => [(a, b)]
  | (k, c) :: rest => if a < k then (a, b) :: (k, c) :: rest else (k, c) :: Mem.insert a b rest

/-- Write one byte; a byte equal to the background leaves no cell. -/
def Mem.write (m : Mem) (a : Nat) (b : Byte) : Mem :=
  if b = background a then m.erase a else (m.erase a).insert a b

/-- Write bytes at consecutive rising addresses, the first at `a`. -/
def Mem.writeBytes (m : Mem) (a : Nat) : List Byte → Mem
  | [] => m
  | b :: bs => Mem.writeBytes (m.write a b) (a + 1) bs

/-- Canonical from address `lo` on: rising, existing addresses, no cell equal to the background. -/
def Mem.wfFrom (lo : Nat) : Mem → Bool
  | [] => true
  | (k, b) :: rest => decide (lo ≤ k) && addrExists k && b != background k && Mem.wfFrom (k + 1) rest

/-- The canonical form of memory. -/
def Mem.wf (m : Mem) : Bool := m.wfFrom 0

/-- The memory that holds the listed bytes, the first entry of an address counting; entries of addresses
that do not exist are left out. -/
def Mem.ofCells : List (Nat × Byte) → Mem
  | [] => []
  | (a, b) :: rest => if addrExists a then (Mem.ofCells rest).write a b else Mem.ofCells rest

end Sys2Proof.Machine
end

