-- ==== Sys2Proof/Machine/State.lean ====
section
/-! DEFINITION. Every piece of state of 10_state.md, as plain data, and the machine right after reset. -/

namespace Sys2Proof.Machine

/-- The fault kinds of 60_exceptions.md R253. The engine TAKES each of them: the cycle answers a next state
whose engine state is `faulted` (R251, R252), so no step answers `Host.Outcome.fault` (log 2). -/
inductive Fault where
  /-- Raised by a Running cycle with `pc >= MEM_CEILING` (40_cycle.md R113). Safe: the source faults too. -/
  | pcOutOfBounds
  /-- Raised for a word of 30_encoding.md R98. Safe: where the spec decides it (D4) the machine only stops. -/
  | unrecognizedInstruction
  /-- Raised by 00EE on an empty stack (10_state.md R31). Safe: undefined in the source (D2). -/
  | stackUnderflow
  /-- Raised by a fetch, Dxyn, Fx33, Fx55 or Fx65 at an address `>= MEM_SIZE` (20_memory.md R68, R69).
  Safe: the machine only stops (D1). -/
  | memOutOfBounds
  /-- Raised by 2nnn on a full stack of a bounded build (10_state.md R30). Safe: the machine only stops (D3). -/
  | stackOverflow
deriving DecidableEq, Repr

/-- `Code(F)` (60_exceptions.md R253, decision D22). -/
def Fault.code : Fault → Nat
  | .pcOutOfBounds => 1
  | .unrecognizedInstruction => 2
  | .stackUnderflow => 3
  | .memOutOfBounds => 4
  | .stackOverflow => 5

/-- What the model gives no meaning. -/
inductive Refusal where
  /-- Answered by `exec` for an instruction without a meaning; no arm answers it. Safe. -/
  | notModelled (mnemonic : String)
  /-- Answered by the driver's `construct` for an image over 3583 bytes, the loader error of
  70_reset_and_hazards.md R284; no step answers it. Safe: no machine is built. -/
  | imageTooLong
deriving DecidableEq, Repr

/-- The fault record (10_state.md R40; 60_exceptions.md R252); its code is `kind.code`. `word` is absent
where the fetch did not complete, `addr` where the fault is no memory fault: both absences are the spec's. -/
structure FaultRecord where
  kind : Fault
  pc : PcWord
  word : Option Word
  addr : Option Nat
deriving DecidableEq, Repr

/-- The engine's control state (10_state.md R36; 40_cycle.md R111). -/
inductive Engine where
  | running
  | awaitingKey (target : Reg)
  | faulted (record : FaultRecord)
deriving DecidableEq, Repr

/-- The machine. -/
structure State where
  /-- V0..VF (10_state.md R21) -/
  v : Vector Byte params.numV
  /-- the address register I (R28) -/
  i : IWord
  /-- the program counter (R24) -/
  pc : PcWord
  /-- the call stack, oldest entry first (R29) -/
  stack : List StackEntry
  /-- the delay timer DT (R33) -/
  dt : Timer
  /-- the sound timer ST (R33) -/
  st : Timer
  /-- the keyboard latch (R35) -/
  keys : Vector Bool params.numKeys
  /-- the control state with the fault record (R36, R40) -/
  engine : Engine
  /-- the plane (R38) -/
  plane : Vector Bool (params.dispW * params.dispH)
  /-- the colour buffer (R39) -/
  color : Vector Colour (params.dispW * params.dispH)
  /-- the current-word latch cur_word (R41) -/
  curWord : Word
  /-- memory (20_memory.md R61) -/
  mem : Mem
  /-- the parameters of 00_scope.md R5; no operation writes them (log 3) -/
  cfg : Config
  /-- the model's own: how many free values have been taken (log 10) -/
  draws : Nat
deriving DecidableEq, Repr

/-- Right after construction (10_state.md R45; 70_reset_and_hazards.md R281) with no image loaded. The
spec's values: pc, stack, engine, plane, colour buffer. DESIGN CHOICE (log 5, 6, 7, 9, 10): the registers,
I, the timers, the latch, memory outside the font, cur_word and the draw counter. -/
def State.reset : State :=
  { v := runner.initV
    i := runner.initI
    pc := BitVec.ofNat _ params.progBase
    stack := []
    dt := runner.initDt
    st := runner.initSt
    keys := runner.initKeys
    engine := .running
    plane := Vector.replicate _ false
    color := Vector.replicate _ hardware.offColor
    curWord := runner.initCurWord
    mem := []
    cfg := hardware
    draws := 0 }

end Sys2Proof.Machine
end

