-- ==== Sys2Proof/Machine/Ops.lean ====
section
/-! DEFINITION. The named operations over registers, stack, memory, display and timers, and taking a fault:
the one shared operation of 60_exceptions.md R252. There is no return from a fault but construction (R263),
which stands in Machine/Driver.lean. -/

namespace Sys2Proof.Machine

/-- What a step answers. -/
abbrev Result := Host.Outcome State Fault Refusal

/-- `V[r]` (00_scope.md R8). -/
def State.getV (s : State) (r : Reg) : Byte := s.v.get r

/-- `V[r] <- b` (00_scope.md R8). -/
def State.setV (s : State) (r : Reg) (b : Byte) : State := { s with v := s.v.set r b }

/-- `I <- w`. -/
def State.setI (s : State) (w : IWord) : State := { s with i := w }

/-- `pc <- w`. -/
def State.setPc (s : State) (w : PcWord) : State := { s with pc := w }

/-- `pc <- pc + n`, on `PC_WIDTH` bits (10_state.md R25, R27). -/
def State.advance (s : State) (n : Nat) : State := { s with pc := s.pc + BitVec.ofNat _ n }

/-- `stack <- l` (10_state.md R30, R31). -/
def State.setStack (s : State) (l : List StackEntry) : State := { s with stack := l }

/-- The control state becomes `e` (10_state.md R36). -/
def State.setEngine (s : State) (e : Engine) : State := { s with engine := e }

/-- `DT <- b`. -/
def State.setDt (s : State) (b : Timer) : State := { s with dt := b }

/-- `ST <- b`. -/
def State.setSt (s : State) (b : Timer) : State := { s with st := b }

/-- `Plane[k]` (10_state.md R38). -/
def State.pixel (s : State) (k : Pixel) : Bool := s.plane.get k

/-- `Color[k]` (10_state.md R39). -/
def State.colorAt (s : State) (k : Pixel) : Colour := s.color.get k

/-- `Key(k)` (10_state.md R35). -/
def State.key (s : State) (k : Key) : Bool := s.keys.get k

/-- The colour of a pixel (10_state.md R39). -/
def colorOf (c : Config) (b : Bool) : Colour := if b then c.onColor else c.offColor

/-- `SetPixel(k, b)`: the plane and the colour buffer together (44_display.md R211). -/
def State.setPixel (s : State) (k : Pixel) (b : Bool) : State :=
  { s with plane := s.plane.set k b, color := s.color.set k (colorOf s.cfg b) }

/-- `SetPixel(k, 0)` for every `k` (44_display.md R212). -/
def State.clearDisplay (s : State) : State :=
  { s with plane := Vector.replicate _ false,
           color := Vector.replicate _ (colorOf s.cfg false) }

/-- `MemRead(a, 1)`: nothing where the address does not exist (20_memory.md R68). -/
def State.memRead (s : State) (a : Nat) : Option Byte :=
  if addrExists a then some (s.mem.read a) else none

/-- `MemWrite(a + j, 1, bs[j])` for ascending `j`, every address known to exist (20_memory.md R69, R70). -/
def State.memWriteBytes (s : State) (a : Nat) (bs : List Byte) : State :=
  { s with mem := s.mem.writeBytes a bs }

/-- The first `j < count` whose address `a + j` does not exist: where an instruction that accesses `a`,
`a + 1`, ... in that order faults (60_exceptions.md R257; exact integers, 20_memory.md R72). -/
def firstMissing (a : Nat) : Nat → Option Nat
  | 0 => none
  | count + 1 =>
    match firstMissing a count with
    | some j => some j
    | none => if addrExists (a + count) then none else some count

/-- Take the `n`-th free value and move to the next (log 10). -/
def State.draw (s : State) : State := { s with draws := s.draws + 1 }

/-- `draw8()` (40_cycle.md R125): the value, to be used with `State.draw`. -/
def State.draw8 (s : State) : Byte := Config.freeDraw8 s.draws

/-- Taking a fault, `raise F(info)` (60_exceptions.md R252): the engine is Faulted with the record; `pc`, the
timers and everything else stay as they are. -/
def State.raise (s : State) (kind : Fault) (word : Option Word) (addr : Option Nat) : State :=
  s.setEngine (.faulted { kind := kind, pc := s.pc, word := word, addr := addr })

/-- An instruction's own fault without an address: the word was fetched in this cycle. -/
def raiseInstr (kind : Fault) (s : State) : Result := .next (s.raise kind (some s.curWord) none)

/-- An instruction's memory fault at address `addr` after `j` completed accesses. `landed k` is the state
with the first `k` accesses' effects; how many of the `j` are in the faulted state is free
(60_exceptions.md R261; log 11). -/
def raiseMemory (addr j : Nat) (landed : Nat → State) (s : State) : Result :=
  .next (((landed (min (Config.freeWritesLanded s.draws) j)).draw).raise
    .memOutOfBounds (some s.curWord) (some addr))

/-- `TimerTick(T)` (10_state.md R34). -/
def timerTick (t : Timer) : Timer :=
  if t = 0#params.timerWidth then 0#params.timerWidth else t - 1#params.timerWidth

/-- `TimerTick(DT); TimerTick(ST)` (40_cycle.md R118). -/
def State.tickTimers (s : State) : State := { s with dt := timerTick s.dt, st := timerTick s.st }

/-- The skip pattern of families 3, 4, 5 and 0xE (10_state.md R25). -/
def skipIf (cond : Bool) (s : State) : Result := .next (s.advance (if cond then 4 else 2))

/-- Whether a push finds the stack full (10_state.md R30). -/
def State.stackFull (s : State) : Bool := s.cfg.stackCapacity == some s.stack.length

end Sys2Proof.Machine
end

