-- ==== Sys2Proof/Machine/Cycle.lean ====
section
/-! DEFINITION. The parts of one cycle around `Execute` (40_cycle.md R112): fetch, latch, decode, and the
timer step; and placing an instruction where the next fetch reads it. -/

namespace Sys2Proof.Machine

/-- What a fetch gives: a word, or the state after its fault. -/
inductive Fetched where
  | word (w : Word)
  | raised (t : State)
deriving DecidableEq, Repr

/-- The bounds check (R113), then the two bytes at `pc` and `pc + 1` (R114; 20_memory.md R67, R72). No word
was fetched where a fault is raised here, so the record holds none (60_exceptions.md R252). -/
def State.fetch (s : State) : Fetched :=
  if params.memCeiling ≤ s.pc.toNat then .raised (s.raise .pcOutOfBounds none none)
  else
    match s.memRead s.pc.toNat with
    | none => .raised (s.raise .memOutOfBounds none (some s.pc.toNat))
    | some hi =>
      match s.memRead (s.pc.toNat + 1) with
      | none => .raised (s.raise .memOutOfBounds none (some (s.pc.toNat + 1)))
      | some lo => .word (joinBytes hi lo)

/-- `cur_word <- w` (R115). -/
def State.latch (s : State) (w : Word) : State := { s with curWord := w }

/-- A cycle up to `Execute`: over already, or with an instruction to execute. -/
inductive CycleStart where
  | over (t : State)
  | execute (i : Instr) (s : State)
deriving DecidableEq, Repr

/-- The first part of `Cycle()` (R112): nothing happens in Faulted (R121) or AwaitingKey (R120). -/
def State.beginCycle (s : State) : CycleStart :=
  match s.engine with
  | .faulted _ => .over s
  | .awaitingKey _ => .over s
  | .running =>
    match s.fetch with
    | .raised t => .over t
    | .word w =>
      match decodeWord w with
      | .ok i => .execute i (s.latch w)
      | .error _ => .over ((s.latch w).raise .unrecognizedInstruction (some w) none)

/-- The last part of `Cycle()`: the timers tick if the engine is still Running (R118). -/
def finishCycle (r : Result) : Result :=
  match r with
  | .next t => .next (if t.engine = .running then t.tickTimers else t)
  | .fault f => .fault f
  | .refused f => .refused f

/-- Put a word at `pc`, most significant byte first, where both bytes exist, and let the engine run
(log 14). -/
def State.placeWord (s : State) (w : Word) : State :=
  if addrExists (s.pc.toNat + 1) then
    { s with mem := s.mem.writeBytes s.pc.toNat [highByte w, lowByte w], engine := .running }
  else { s with engine := .running }

end Sys2Proof.Machine
end

