-- ==== Sys2Proof/Machine/Flags.lean ====
section
/-! DEFINITION. The flag computations of 42_alu.md R174, on the operands before the instruction. -/

namespace Sys2Proof.Machine

/-- A flag as VF holds it. -/
def flagByte (b : Bool) : Byte := if b then 1#8 else 0#8

/-- 8xy4: unsigned overflow (42_alu.md R168). -/
def carryFlag (a b : Byte) : Bool := 0xFF < a.toNat + b.toNat

/-- 8xy5 and, with the operands exchanged, 8xy7: the strict comparison (42_alu.md R169, R171). -/
def greaterFlag (minuend subtrahend : Byte) : Bool := subtrahend.toNat < minuend.toNat

/-- 8xy6: the old bit 0 (42_alu.md R170). -/
def shrFlag (a : Byte) : Bool := a.getLsbD 0

/-- The source's 16-bit mask for the flag of 8xyE (00_scope.md R6; 42_alu.md R172). -/
def shlMask : BitVec 16 := 0x8000#16

/-- 8xyE: the source's 16-bit mask on the 8-bit value, or bit 7, by `SHL_FLAG_MODE` (42_alu.md R172). -/
def shlFlag (mode : ShlFlagMode) (a : Byte) : Bool :=
  match mode with
  | .asWritten => (a.setWidth 16 &&& shlMask) != 0#16
  | .bit7 => a.getLsbD 7

/-- Result to `V[x]` first, flag to VF last, then `pc + 2` (42_alu.md R163 (b), decision D10). -/
def State.writeResultFlag (s : State) (x : Reg) (result : Byte) (flag : Bool) : State :=
  ((s.setV x result).setV flagReg (flagByte flag)).advance 2

end Sys2Proof.Machine
end

