-- ==== Sys2Proof/Machine/Operands.lean ====
section
/-! DEFINITION. The operand forms: immediates, the effective address `I + offset`, register ranges, decimal
digits, key numbers, sprite bits and pixel indices. -/

namespace Sys2Proof.Machine

/-- `zext_N(nnn)` (30_encoding.md R91), N the width of the register written. -/
def zextAddr {width : Nat} (nnn : Addr) : BitVec width := nnn.setWidth width

/-- `zext_N(b)`. -/
def zextByte {width : Nat} (b : Byte) : BitVec width := b.setWidth width

/-- The base of every data access (43_index_memory.md R197), an exact integer (20_memory.md R72). -/
def State.base (s : State) : Nat := s.i.toNat

/-- The values of `V[0] .. V[x]`, ascending (43_index_memory.md R195). -/
def State.regsUpTo (s : State) (x : Reg) : List Byte := s.v.toList.take (x.val + 1)

/-- The hundreds, tens and ones of a byte (43_index_memory.md R194). -/
def decimalDigits (b : Byte) : List Byte :=
  [BitVec.ofNat 8 (b.toNat / 100), BitVec.ofNat 8 (b.toNat / 10 % 10), BitVec.ofNat 8 (b.toNat % 10)]

/-- `(k < NUM_KEYS) and Key(k) = 1` (45_timers_input.md R234, decision D14). -/
def State.keyHeld (s : State) (k : Byte) : Bool :=
  if h : k.toNat < params.numKeys then s.key ⟨k.toNat, h⟩ else false

/-- `(b >> (7 - col)) & 1`: bit 7 is column 0 (44_display.md R213, R216). -/
def spriteBit (b : Byte) (col : Nat) : Bool := b.getLsbD (7 - col)

/-- `px + col + (py + row) * DISP_W`, an exact integer (44_display.md R213, R214). -/
def pixelIndex (px py col row : Nat) : Nat := px + col + (py + row) * params.dispW

/-- The address of a glyph, from the whole byte (43_index_memory.md R193). -/
def glyphAddr (b : Byte) : IWord :=
  BitVec.ofNat _ (params.fontBase + params.fontGlyphBytes * b.toNat)

end Sys2Proof.Machine
end

