-- ==== Sys2Proof/Machine/Alu.lean ====
section
/-! DEFINITION. Register loads and the 8-bit ALU (42_alu.md): families 6, 7, 8 and 0xC. -/

namespace Sys2Proof.Machine

/-- 6xkk `LD Vx, kk` (R161). -/
def execLdImm (x : Reg) (kk : Byte) (s : State) : Result := .next ((s.setV x kk).advance 2)

/-- 7xkk `ADD Vx, kk` (R162): modulo 256, no flag. -/
def execAddImm (x : Reg) (kk : Byte) (s : State) : Result :=
  .next ((s.setV x (s.getV x + kk)).advance 2)

/-- 8xy0 `LD Vx, Vy` (R164). -/
def execLdReg (x y : Reg) (s : State) : Result := .next ((s.setV x (s.getV y)).advance 2)

/-- 8xy1 `OR Vx, Vy` (R165). -/
def execOrReg (x y : Reg) (s : State) : Result :=
  .next ((s.setV x (s.getV x ||| s.getV y)).advance 2)

/-- 8xy2 `AND Vx, Vy` (R166). -/
def execAndReg (x y : Reg) (s : State) : Result :=
  .next ((s.setV x (s.getV x &&& s.getV y)).advance 2)

/-- 8xy3 `XOR Vx, Vy` (R167). -/
def execXorReg (x y : Reg) (s : State) : Result :=
  .next ((s.setV x (s.getV x ^^^ s.getV y)).advance 2)

/-- 8xy4 `ADD Vx, Vy` (R168). -/
def execAddReg (x y : Reg) (s : State) : Result :=
  .next (s.writeResultFlag x (s.getV x + s.getV y) (carryFlag (s.getV x) (s.getV y)))

/-- 8xy5 `SUB Vx, Vy` (R169). -/
def execSub (x y : Reg) (s : State) : Result :=
  .next (s.writeResultFlag x (s.getV x - s.getV y) (greaterFlag (s.getV x) (s.getV y)))

/-- 8xy6 `SHR Vx` (R170). -/
def execShr (x : Reg) (s : State) : Result :=
  .next (s.writeResultFlag x (s.getV x >>> 1) (shrFlag (s.getV x)))

/-- 8xy7 `SUBN Vx, Vy` (R171). -/
def execSubn (x y : Reg) (s : State) : Result :=
  .next (s.writeResultFlag x (s.getV y - s.getV x) (greaterFlag (s.getV y) (s.getV x)))

/-- 8xyE `SHL Vx` (R172). -/
def execShl (x : Reg) (s : State) : Result :=
  .next (s.writeResultFlag x (s.getV x <<< 1) (shlFlag s.cfg.shlFlagMode (s.getV x)))

/-- Cxkk `RND Vx, kk` (R181): a fresh free byte under the mask. -/
def execRnd (x : Reg) (kk : Byte) (s : State) : Result :=
  .next (((s.setV x (s.draw8 &&& kk)).draw).advance 2)

end Sys2Proof.Machine
end

