-- ==== Sys2Proof/Machine/ControlFlow.lean ====
section
/-! DEFINITION. Control transfer and skips (41_control_flow.md): RET, JP, CALL, SE, SNE, JP V0. -/

namespace Sys2Proof.Machine

/-- 00EE `RET` (R136): `Pop()` (10_state.md R31), then the popped value plus 2. -/
def execRet (s : State) : Result :=
  match s.stack.getLast? with
  | none => raiseInstr .stackUnderflow s
  | some v => .next ((s.setStack s.stack.dropLast).setPc (v + 2#params.stackEntryWidth))

/-- 1nnn `JP nnn` (R137). -/
def execJp (nnn : Addr) (s : State) : Result := .next (s.setPc (zextAddr nnn))

/-- 2nnn `CALL nnn` (R138): `Push(pc)` (10_state.md R30) of this instruction's own address, then the jump. -/
def execCall (nnn : Addr) (s : State) : Result :=
  if s.stackFull then raiseInstr .stackOverflow s
  else .next ((s.setStack (s.stack ++ [s.pc])).setPc (zextAddr nnn))

/-- 3xkk `SE Vx, kk` (R139). -/
def execSeImm (x : Reg) (kk : Byte) (s : State) : Result := skipIf (s.getV x == kk) s

/-- 4xkk `SNE Vx, kk` (R140). -/
def execSneImm (x : Reg) (kk : Byte) (s : State) : Result := skipIf (s.getV x != kk) s

/-- 5xyn `SE Vx, Vy` (R141). -/
def execSeReg (x y : Reg) (s : State) : Result := skipIf (s.getV x == s.getV y) s

/-- The advance of 9xyn by `NINE_SKIP_MODE` (R142, decision D7). -/
def nineAdvance (mode : NineSkipMode) (differ : Bool) : Nat :=
  match mode with
  | .asWritten => if differ then 2 else 0
  | .conventional => if differ then 4 else 2

/-- The flag of 9xyn by `NINE_FLAG` (R142, decision D35): a free VF, or VF unchanged. -/
def State.nineFlag (s : State) : State :=
  match s.cfg.nineFlag with
  | .havoc => (s.setV flagReg s.draw8).draw
  | .keep => s

/-- 9xyn `SNE Vx, Vy` (R142): both registers are read before VF is written. -/
def execSneReg (x y : Reg) (s : State) : Result :=
  .next ((s.advance (nineAdvance s.cfg.nineSkipMode (s.getV x != s.getV y))).nineFlag)

/-- Bnnn `JP V0, nnn` (R143): the exact sum, which fits 16 bits. -/
def execJpV0 (nnn : Addr) (s : State) : Result :=
  .next (s.setPc (zextByte (s.getV 0) + zextAddr nnn))

end Sys2Proof.Machine
end

