-- ==== Sys2Proof/Machine/Display.lean ====
section
/-! DEFINITION. The display controller's two instructions (44_display.md): 00E0 and Dxyn. -/

namespace Sys2Proof.Machine

/-- 00E0 `CLS` (R212). -/
def execCls (s : State) : Result := .next (s.clearDisplay.advance 2)

/-- A draw under way: the machine and whether a collision has occurred. -/
abbrev Drawing := State × Bool

/-- One sprite bit at one linear index (R213): an index past the display is skipped (R214); a 1-bit on an on
pixel is a collision (R215). -/
def drawBit (index : Nat) (bit : Bool) (d : Drawing) : Drawing :=
  if h : index < params.dispW * params.dispH then
    (d.1.setPixel ⟨index, h⟩ (d.1.pixel ⟨index, h⟩ ^^ bit), d.2 || (bit && d.1.pixel ⟨index, h⟩))
  else d

/-- The columns `0 .. count - 1` of a sprite row (R213). -/
def drawCols (px py row : Nat) (b : Byte) : Nat → Drawing → Drawing
  | 0, d => d
  | count + 1, d =>
    drawBit (pixelIndex px py count row) (spriteBit b count) (drawCols px py row b count d)

/-- The rows `0 .. count - 1` of the sprite at `I`, eight columns each (R213). -/
def drawRows (px py : Nat) (s : State) : Nat → Drawing
  | 0 => (s, false)
  | count + 1 => drawCols px py count (s.mem.read (s.base + count)) 8 (drawRows px py s count)

/-- Dxyn `DRW Vx, Vy, n` (R213): the position is read first, VF is written last; faulting at the first row
whose address does not exist, with an open number of the earlier rows drawn and a free VF (R213, log 12). -/
def execDrw (x y : Reg) (n : Fin 16) (s : State) : Result :=
  let px := (s.getV x).toNat
  let py := (s.getV y).toNat
  match firstMissing s.base n.val with
  | none =>
    .next (((drawRows px py s n.val).1.setV flagReg (flagByte (drawRows px py s n.val).2)).advance 2)
  | some j =>
    raiseMemory (s.base + j) j
      (fun k => (drawRows px py s k).1.setV flagReg (Config.freeFlagAfterFault s.draws)) s

end Sys2Proof.Machine
end

