-- ==== Sys2Proof/Machine/IndexMemory.lean ====
section
/-! DEFINITION. The address register, loads and stores (43_index_memory.md): Annn, Fx1E, Fx29, Fx33, Fx55,
Fx65. None changes `I` as a side effect of an access (R197). -/

namespace Sys2Proof.Machine

/-- Annn `LD I, nnn` (R191). -/
def execLdI (nnn : Addr) (s : State) : Result := .next ((s.setI (zextAddr nnn)).advance 2)

/-- Fx1E `ADD I, Vx` (R192): modulo 2^16, no flag. -/
def execAddI (x : Reg) (s : State) : Result :=
  .next ((s.setI (s.i + zextByte (s.getV x))).advance 2)

/-- Fx29 `LD F, Vx` (R193). -/
def execLdF (x : Reg) (s : State) : Result := .next ((s.setI (glyphAddr (s.getV x))).advance 2)

/-- Store bytes at `I`, `I + 1`, ... in order, or fault at the first address that does not exist, an open
number of the earlier bytes being stored (20_memory.md R69; 60_exceptions.md R257, R261). -/
def storeAtI (bs : List Byte) (s : State) : Result :=
  match firstMissing s.base bs.length with
  | none => .next ((s.memWriteBytes s.base bs).advance 2)
  | some j => raiseMemory (s.base + j) j (fun k => s.memWriteBytes s.base (bs.take k)) s

/-- `V[0] .. V[count - 1]` loaded from `I`, ascending (43_index_memory.md R196). -/
def State.loadRegs (s : State) : Nat → State
  | 0 => s
  | count + 1 => (s.loadRegs count).setV (Fin.ofNat params.numV count) (s.mem.read (s.base + count))

/-- Fx33 `LD B, Vx` (R194). -/
def execLdB (x : Reg) (s : State) : Result := storeAtI (decimalDigits (s.getV x)) s

/-- Fx55 `LD [I], Vx` (R195). -/
def execLdMemV (x : Reg) (s : State) : Result := storeAtI (s.regsUpTo x) s

/-- Fx65 `LD Vx, [I]` (R196), faulting at the first address that does not exist. -/
def execLdVMem (x : Reg) (s : State) : Result :=
  match firstMissing s.base (x.val + 1) with
  | none => .next ((s.loadRegs (x.val + 1)).advance 2)
  | some j => raiseMemory (s.base + j) j s.loadRegs s

end Sys2Proof.Machine
end

