-- ==== Sys2Proof/Machine/TimersInput.lean ====
section
/-! DEFINITION. Timers, key skips and the key wait (45_timers_input.md): Fx07, Fx15, Fx18, Ex9E, ExA1, Fx0A. -/

namespace Sys2Proof.Machine

/-- Fx07 `LD Vx, DT` (R231): DT before this cycle's tick. -/
def execLdVDt (x : Reg) (s : State) : Result := .next ((s.setV x s.dt).advance 2)

/-- Fx15 `LD DT, Vx` (R232); the cycle's tick follows. -/
def execLdDtV (x : Reg) (s : State) : Result := .next ((s.setDt (s.getV x)).advance 2)

/-- Fx18 `LD ST, Vx` (R233); the cycle's tick follows. -/
def execLdStV (x : Reg) (s : State) : Result := .next ((s.setSt (s.getV x)).advance 2)

/-- Ex9E `SKP Vx` (R234). -/
def execSkp (x : Reg) (s : State) : Result := skipIf (s.keyHeld (s.getV x)) s

/-- ExA1 `SKNP Vx` (R235). -/
def execSknp (x : Reg) (s : State) : Result := skipIf (!s.keyHeld (s.getV x)) s

/-- Fx0A `LD Vx, K` (R236): the wait begins; pc stays, and the cycle does not tick (40_cycle.md R119). -/
def execLdVK (x : Reg) (s : State) : Result := .next (s.setEngine (.awaitingKey x))

end Sys2Proof.Machine
end

