-- ==== Sys2Proof/Machine/Step.lean ====
section
/-! DEFINITION. One step is one call of "execute one cycle" (40_cycle.md R112). -/

namespace Sys2Proof.Machine

/-- `Cycle()` (40_cycle.md R112). A fault is taken as a next state (60_exceptions.md R252). -/
def step (s : State) : Host.Outcome State Fault Refusal :=
  match s.beginCycle with
  | .over t => .next t
  | .execute i t => finishCycle (exec i t)

/-- `s` with a table row's word stored where `step` fetches its next instruction (log 14). -/
def State.withFetchWord (s : State) (nbits w : Nat) : State := s.placeWord (tableWord nbits w)

end Sys2Proof.Machine
end

