-- ==== Sys2Proof/Machine/Driver.lean ====
section
/-! DEFINITION. The driver's operations (40_cycle.md R126): construction, the cycle, the key operations, the
disassembly reset and the observables. They are atomic and come between cycles, in any number and order
(R127). -/

namespace Sys2Proof.Machine

/-- `MEM_CEILING - PROG_BASE`, the longest image (20_memory.md R66; 70_reset_and_hazards.md R284). -/
def maxImage : Nat := params.memCeiling - params.progBase

/-- Memory after construction: `INIT_MEM`, then the font, then the image (70_reset_and_hazards.md R281). -/
def initialMem (l : Launch) (image : List Byte) : Mem :=
  ((Mem.ofCells l.initMem).writeBytes params.fontBase l.font.toList).writeBytes params.progBase image

/-- The machine `construct(image)` builds; `draws` is the model's own counter, carried on so that a new
machine takes fresh free values (log 10). -/
def launch (c : Config) (l : Launch) (image : List Byte) (draws : Nat) : State :=
  { v := l.initV
    i := l.initI
    pc := BitVec.ofNat _ params.progBase
    stack := []
    dt := l.initDt
    st := l.initSt
    keys := l.initKeys
    engine := .running
    plane := Vector.replicate _ false
    color := Vector.replicate _ (colorOf c false)
    curWord := l.initCurWord
    mem := initialMem l image
    cfg := c
    draws := draws }

/-- `construct(image)` (70_reset_and_hazards.md R281): an image over 3583 bytes is a loader error, and no
machine is built (R284). -/
def construct (c : Config) (l : Launch) (image : List Byte) (draws : Nat) : Result :=
  if maxImage < image.length then .refused .imageTooLong else .next (launch c l image draws)

/-- `set_key(k, held)` (45_timers_input.md R237). -/
def State.setKey (s : State) (k : Key) (held : Bool) : State := { s with keys := s.keys.set k held }

/-- `deliver_key(k)` (45_timers_input.md R238): only a waiting engine takes the key. -/
def State.deliverKey (s : State) (k : Key) : State :=
  match s.engine with
  | .awaitingKey t =>
    let u := (s.setV t (BitVec.ofNat 8 k.val)).setEngine .running
    match s.cfg.fx0aResume with
    | .advance => u.advance 2
    | .refetch => u
  | .running => s
  | .faulted _ => s

/-- `disasm_reset_pc()` (40_cycle.md R130), in any engine state. -/
def State.disasmResetPc (s : State) : State := { s with pc := BitVec.ofNat _ params.progBase }

/-- The driver's operations (40_cycle.md R126). A reconstruction keeps the hardware's parameters. -/
inductive DriverOp where
  | cycle
  | setKey (k : Key) (held : Bool)
  | deliverKey (k : Key)
  | disasmResetPc
  | reconstruct (l : Launch) (image : List Byte)
deriving DecidableEq, Repr

/-- The effect of one operation. -/
def DriverOp.apply (op : DriverOp) (s : State) : Result :=
  match op with
  | .cycle => step s
  | .setKey k held => .next (s.setKey k held)
  | .deliverKey k => .next (s.deliverKey k)
  | .disasmResetPc => .next s.disasmResetPc
  | .reconstruct l image => construct s.cfg l image s.draws

/-- A run: the driver's operations in sequence (40_cycle.md R127, R131). -/
def drive : List DriverOp → State → Result
  | [], s => .next s
  | op :: ops, s =>
    match op.apply s with
    | .next t => drive ops t
    | .fault f => .fault f
    | .refused r => .refused r

/-- What `cycle()` returns to the driver (40_cycle.md R124): `none` is `Ok`, `some f` is `Fault(f)`. It is
read from the state after the cycle. -/
def State.cycleResult (s : State) : Option FaultRecord :=
  match s.engine with
  | .faulted f => some f
  | .running => none
  | .awaitingKey _ => none

/-- The observables (10_state.md R44; 40_cycle.md R128). -/
structure Observables where
  color : Vector Colour (params.dispW * params.dispH)
  dt : Timer
  st : Timer
  v : Vector Byte params.numV
  i : IWord
  pc : PcWord
  curWord : Word
  engine : Engine
deriving DecidableEq, Repr

/-- Reading the observables; it changes nothing. -/
def State.observe (s : State) : Observables :=
  { color := s.color, dt := s.dt, st := s.st, v := s.v, i := s.i, pc := s.pc, curWord := s.curWord
    engine := s.engine }

end Sys2Proof.Machine
end

