-- ==== Sys2Proof/Safety.lean ====
section
/-! DEFINITION. The terms claims use: the parts of a state and what may change them, the invariant, which
fault a cycle takes, and the end states of a run. Each is written from the spec's tables, not from `exec`. -/

namespace Sys2Proof.Machine

/-- The pieces of a state, as small as a claim can name them. -/
inductive Part where
  | reg (r : Reg)
  | i
  | pc
  | stack
  | dt
  | st
  | key (k : Key)
  | engine
  | pixel (k : Pixel)
  | colour (k : Pixel)
  | curWord
  | byte (a : Nat)
  | cfg
  | draws
deriving DecidableEq, Repr

/-- A part is the same in two states; a byte of memory is compared by reading it. -/
def Part.same (s t : State) : Part → Prop
  | .reg r => t.getV r = s.getV r
  | .i => t.i = s.i
  | .pc => t.pc = s.pc
  | .stack => t.stack = s.stack
  | .dt => t.dt = s.dt
  | .st => t.st = s.st
  | .key k => t.key k = s.key k
  | .engine => t.engine = s.engine
  | .pixel k => t.pixel k = s.pixel k
  | .colour k => t.colorAt k = s.colorAt k
  | .curWord => t.curWord = s.curWord
  | .byte a => t.mem.read a = s.mem.read a
  | .cfg => t.cfg = s.cfg
  | .draws => t.draws = s.draws

/-- From `s` to `t` every part outside `may` is unchanged. -/
def OnlyChanges (s t : State) (may : Part → Prop) : Prop := ∀ p, may p ∨ p.same s t

/-- Row `row`, column `col` of an 8-column sprite at `(px, py)` falls on pixel `k` (44_display.md R213). -/
def SpriteCovers (px py row col : Nat) (k : Pixel) : Prop :=
  px + col + (py + row) * params.dispW = k.val

/-- The sprite of Dxyn has a 1-bit on pixel `k`: bit `7 - col` of the byte at `I + row`, for one of the
`n` rows and eight columns (44_display.md R213, R216). -/
def SpriteSets (s : State) (x y : Reg) (n : Nat) (k : Pixel) : Prop :=
  ∃ row < n, ∃ col < 8, SpriteCovers (s.getV x).toNat (s.getV y).toNat row col k ∧
    (s.mem.read (s.i.toNat + row)).getLsbD (7 - col) = true

/-- One of the sprite's columns, set or not, falls on pixel `k`: a pixel Dxyn touches. -/
def SpriteTouches (s : State) (x y : Reg) (n : Nat) (k : Pixel) : Prop :=
  ∃ row < n, ∃ col < 8, SpriteCovers (s.getV x).toNat (s.getV y).toNat row col k

/-- The registers an instruction writes (10_state.md R23). -/
def mayWriteReg (c : Config) (r : Reg) : Instr → Prop
  | .ldImm x _ | .addImm x _ | .ldReg x _ | .orReg x _ | .andReg x _ | .xorReg x _ => r = x
  | .addReg x _ | .sub x _ | .subn x _ | .shr x | .shl x => r = x ∨ r = flagReg
  | .rnd x _ | .ldVDt x => r = x
  | .drw _ _ _ => r = flagReg
  | .sneReg _ _ => r = flagReg ∧ c.nineFlag = .havoc
  | .ldVMem x => r.val ≤ x.val
  | .cls | .ret | .jp _ | .call _ | .seImm _ _ | .sneImm _ _ | .seReg _ _ | .ldI _ | .jpV0 _ => False
  | .skp _ | .sknp _ | .ldVK _ | .ldDtV _ | .ldStV _ | .addI _ | .ldF _ | .ldB _ | .ldMemV _ => False

/-- The bytes an instruction stores to, from `I` on (20_memory.md R70; 43_index_memory.md R194, R195). -/
def mayWriteByte (s : State) (a : Nat) : Instr → Prop
  | .ldB _ => s.i.toNat ≤ a ∧ a < s.i.toNat + 3
  | .ldMemV x => s.i.toNat ≤ a ∧ a < s.i.toNat + (x.val + 1)
  | _ => False

/-- The pixels an instruction touches (10_state.md R38; 44_display.md R212, R213). -/
def mayWritePixel (s : State) (k : Pixel) : Instr → Prop
  | .cls => True
  | .drw x y n => SpriteTouches s x y n.val k
  | _ => False

/-- What an instruction that completes may change, part by part: the tables of 10_state.md R23, R25, R28,
R33, R36, R38 and 20_memory.md R70. No instruction changes the latch (R35), cur_word or a parameter. -/
def mayChange (i : Instr) (s : State) : Part → Prop
  | .reg r => mayWriteReg s.cfg r i
  | .i => (∃ nnn, i = .ldI nnn) ∨ (∃ x, i = .addI x) ∨ ∃ x, i = .ldF x
  | .pc => ¬ ∃ x, i = .ldVK x
  | .stack => i = .ret ∨ ∃ nnn, i = .call nnn
  | .dt => ∃ x, i = .ldDtV x
  | .st => ∃ x, i = .ldStV x
  | .engine => ∃ x, i = .ldVK x
  | .pixel k => mayWritePixel s k i
  | .colour k => mayWritePixel s k i
  | .byte a => mayWriteByte s a i
  | .draws => (∃ x kk, i = .rnd x kk) ∨ ((∃ x y, i = .sneReg x y) ∧ s.cfg.nineFlag = .havoc)
  | .key _ | .curWord | .cfg => False

/-- The record of a fault says what 60_exceptions.md R253 lets its kind say. -/
def FaultRecord.WellFormed (f : FaultRecord) : Prop :=
  match f.kind with
  | .pcOutOfBounds => f.word = none ∧ f.addr = none ∧ params.memCeiling ≤ f.pc.toNat
  | .unrecognizedInstruction => f.addr = none ∧ ∃ w, f.word = some w ∧ wellFormedWord w = false
  | .stackUnderflow => f.addr = none ∧ f.word.isSome = true
  | .memOutOfBounds => ∃ a, f.addr = some a ∧ params.memSize ≤ a
  | .stackOverflow => f.addr = none ∧ f.word.isSome = true

/-- What every reachable state satisfies: canonical memory; the colour buffer in step with the plane
(10_state.md R39); `pc` at most 0x10FE, so that it never wraps (R27); return addresses of fetchable
instructions (R27, R30); a waiting engine's `pc` below the ceiling (R36); the stack within its capacity
(R29); a well-formed fault record (R40). -/
structure Inv (s : State) : Prop where
  memCanonical : s.mem.wf = true
  colourInStep : ∀ k : Pixel, s.colorAt k = if s.pixel k = true then s.cfg.onColor else s.cfg.offColor
  pcInRange : s.pc.toNat ≤ 0x10FE
  returnsFetchable : ∀ v ∈ s.stack, v.toNat < params.memCeiling
  waitFetchable : ∀ x, s.engine = .awaitingKey x → s.pc.toNat < params.memCeiling
  stackWithin : ∀ n, s.cfg.stackCapacity = some n → s.stack.length ≤ n
  recordSays : ∀ f, s.engine = .faulted f → f.WellFormed

/-- The word the two bytes at `pc` make (20_memory.md R67). -/
def State.wordAtPc (s : State) : Word := s.mem.read s.pc.toNat ++ s.mem.read (s.pc.toNat + 1)

/-- The fault of `count` accesses from `I` on, if one of them is past memory: the first such address
(60_exceptions.md R257). -/
def State.accessFault (s : State) (count : Nat) : Option FaultRecord :=
  if count = 0 ∨ s.i.toNat + count ≤ params.memSize then none
  else some { kind := .memOutOfBounds, pc := s.pc, word := some s.wordAtPc,
              addr := some (max s.i.toNat params.memSize) }

/-- An instruction's own fault (60_exceptions.md R260, step 4). -/
def ownFault (s : State) : Instr → Option FaultRecord
  | .ret =>
    if s.stack = [] then
      some { kind := .stackUnderflow, pc := s.pc, word := some s.wordAtPc, addr := none }
    else none
  | .call _ =>
    if s.cfg.stackCapacity = some s.stack.length then
      some { kind := .stackOverflow, pc := s.pc, word := some s.wordAtPc, addr := none }
    else none
  | .drw _ _ n => s.accessFault n.val
  | .ldB _ => s.accessFault 3
  | .ldMemV x => s.accessFault (x.val + 1)
  | .ldVMem x => s.accessFault (x.val + 1)
  | _ => none

/-- The fault a Running cycle takes, by the order of 60_exceptions.md R260. -/
def State.dueFault (s : State) : Option FaultRecord :=
  if params.memCeiling ≤ s.pc.toNat then
    some { kind := .pcOutOfBounds, pc := s.pc, word := none, addr := none }
  else if params.memSize ≤ s.pc.toNat + 1 then
    some { kind := .memOutOfBounds, pc := s.pc, word := none, addr := some (max s.pc.toNat params.memSize) }
  else
    match decodeWord s.wordAtPc with
    | .error _ =>
      some { kind := .unrecognizedInstruction, pc := s.pc, word := some s.wordAtPc, addr := none }
    | .ok i => ownFault s i

/-- A Running engine about to execute `i`: both bytes of its word exist and decode to it. -/
def State.About (s : State) (i : Instr) : Prop :=
  s.engine = .running ∧
    (s.pc.toNat < params.memCeiling ∧ s.pc.toNat + 1 < params.memSize) ∧ decodeWord s.wordAtPc = .ok i

/-- End state (c) of 40_cycle.md R131: the instruction at `pc` is a jump to itself. -/
def State.JumpsToSelf (s : State) : Prop := ∃ nnn : Addr, s.About (.jp nnn) ∧ nnn.toNat = s.pc.toNat

/-- End state (d) of 40_cycle.md R131: a 9xyn with equal operands under `AsWritten`. -/
def State.StallsAtNine (s : State) (x y : Reg) : Prop :=
  s.About (.sneReg x y) ∧ s.cfg.nineSkipMode = .asWritten ∧ s.getV x = s.getV y

/-- A safe state: the engine has not faulted. -/
def State.Safe (s : State) : Prop := ∀ f, s.engine ≠ .faulted f

end Sys2Proof.Machine
end

