-- ==== Sys2Proof/Certificates/Slice0/Obligations.lean ====
section
/-! DEFINITION. The statements for the provers. Each says which rule of spec/ it formalises; where it rests
on a decision the spec marks as its own, the docstring names it. Numerals are this hardware's values of the
parameters of 00_scope.md R5 (`params`). -/

open Sys2Proof Sys2Proof.Machine

/-! ## Encoding -/

/-- 30_encoding.md R92: words written out from the dispatch map, at least one per family, decode to the
instructions they stand for, with ignored nibbles at other values (R93, an inference of the spec; decisions D5
and D9); that F0FF is refused by name is decision D4. -/
def Obligations.DecoderReadsWrittenWords : Prop :=
  decodeBytes [0x00#8, 0xE0#8] = .ok (.cls, []) ∧
  decodeBytes [0x0F#8, 0xEE#8] = .ok (.ret, []) ∧
  decodeBytes [0x1A#8, 0xBC#8] = .ok (.jp 0xABC#12, []) ∧
  decodeBytes [0x23#8, 0x00#8] = .ok (.call 0x300#12, []) ∧
  decodeBytes [0x33#8, 0x42#8] = .ok (.seImm 3 0x42#8, []) ∧
  decodeBytes [0x43#8, 0x42#8] = .ok (.sneImm 3 0x42#8, []) ∧
  decodeBytes [0x51#8, 0x2F#8] = .ok (.seReg 1 2, []) ∧
  decodeBytes [0x6A#8, 0xFF#8] = .ok (.ldImm 10 0xFF#8, []) ∧
  decodeBytes [0x72#8, 0xFF#8] = .ok (.addImm 2 0xFF#8, []) ∧
  decodeBytes [0x8F#8, 0x14#8] = .ok (.addReg 15 1, []) ∧
  decodeBytes [0x80#8, 0x16#8] = .ok (.shr 0, []) ∧
  decodeBytes [0x91#8, 0x20#8] = .ok (.sneReg 1 2, []) ∧
  decodeBytes [0xA3#8, 0x00#8] = .ok (.ldI 0x300#12, []) ∧
  decodeBytes [0xB3#8, 0x00#8] = .ok (.jpV0 0x300#12, []) ∧
  decodeBytes [0xC3#8, 0x0F#8] = .ok (.rnd 3 0x0F#8, []) ∧
  decodeBytes [0xD1#8, 0x2F#8] = .ok (.drw 1 2 15, []) ∧
  decodeBytes [0xE5#8, 0x9E#8] = .ok (.skp 5, []) ∧
  decodeBytes [0xF2#8, 0x55#8] = .ok (.ldMemV 2, []) ∧
  decodeBytes [0xF0#8, 0xFF#8] = .error (.unrecognized 0xF0FF#16) ∧
  decodeBytes [0x60#8] = .error .truncated

/-- 30_encoding.md, the dispatch map and the assembler table: decoding the bytes of any instruction, with any
bytes after them, gives the instruction and those bytes back. -/
def Obligations.DecodeOfEncodedIsTheInstruction : Prop :=
  ∀ (i : Instr) (rest : List Byte), decodeBytes (encodeBytes i ++ rest) = .ok (i, rest)

/-- 30_encoding.md R93 (bits 11..8 of family 0), decision D5 (the low nibble of families 5 and 9) and
decision D9 (`y` of the shifts): the decoder ignores exactly those bits. Encoding a decoded word gives the word
with its ignored bits zero, and a word that differs only in them decodes alike. -/
def Obligations.DecoderIgnoresOnlyTheIgnoredBits : Prop :=
  ∀ (w w' : Word) (i : Instr), decodeWord w = .ok i →
    encode i = w &&& ~~~ ignoredBits i ∧
    (w' &&& ~~~ ignoredBits i = w &&& ~~~ ignoredBits i → decodeWord w' = .ok i)

/-- 30_encoding.md R88 and R102: the fields are the bit ranges of the word, the word is its four nibbles
joined, and with the byte-order flag set the bytes are swapped first. -/
def Obligations.FieldsAreTheBitsOfTheWord : Prop :=
  (∀ w : Word,
    (decodeFields w false).word = w ∧
    (decodeFields w false).family.toNat = w.toNat / 4096 ∧
    (decodeFields w false).x.toNat = w.toNat / 256 % 16 ∧
    (decodeFields w false).y.toNat = w.toNat / 16 % 16 ∧
    (decodeFields w false).n.toNat = w.toNat % 16 ∧
    (decodeFields w false).kk.toNat = w.toNat % 256 ∧
    (decodeFields w false).nnn.toNat = w.toNat % 4096 ∧
    ((decodeFields w false).family ++ ((decodeFields w false).x ++
      ((decodeFields w false).y ++ (decodeFields w false).n)) : BitVec 16) = w) ∧
  ∀ hi lo : Byte, decodeFields (joinBytes lo hi) true = decodeFields (joinBytes hi lo) false

/-- 30_encoding.md, "Illegal, reserved and hint encodings" (its rows for families 8 and 0xF are decision D4):
a word of the illegal space is refused by name, and every other word is an instruction. -/
def Obligations.DecoderRefusesExactlyTheIllegalWords : Prop :=
  ∀ w : Word,
    let family := w.toNat / 4096
    let kk := w.toNat % 256
    let n := w.toNat % 16
    let illegal :=
      (family = 0 ∧ kk ∉ [0xE0, 0xEE]) ∨
      (family = 8 ∧ n ∈ [0x8, 0x9, 0xA, 0xB, 0xC, 0xD, 0xF]) ∨
      (family = 0xE ∧ kk ∉ [0x9E, 0xA1]) ∨
      (family = 0xF ∧ kk ∉ [0x07, 0x0A, 0x15, 0x18, 0x1E, 0x29, 0x33, 0x55, 0x65])
    (illegal → decodeWord w = .error (.unrecognized w)) ∧ (¬ illegal → ∃ i, decodeWord w = .ok i)

/-! ## The cycle -/

/-- 40_cycle.md R112, R115, R116, R118: a Running cycle whose two bytes decode to `i` executes `i` on the
state with the word latched, and then ticks both timers if the engine is still Running. -/
def Obligations.StepRunsTheDecodedInstruction : Prop :=
  ∀ (s t : State) (hi lo : Byte) (i : Instr),
    s.engine = .running → s.pc.toNat + 1 < 4095 →
    s.mem.read s.pc.toNat = hi → s.mem.read (s.pc.toNat + 1) = lo →
    decodeBytes [hi, lo] = .ok (i, []) →
    exec i { s with curWord := joinBytes hi lo } = .next t →
    step s = .next (if t.engine = .running then
      { t with dt := timerTick t.dt, st := timerTick t.st } else t)

/-- 40_cycle.md, the fetch bounds check: at or beyond the ceiling a Running cycle faults before it reads memory,
and the jump to the ceiling is itself no fault. That the fault is a Faulted state with a record of this content,
and that nothing else changes, are decisions D6 and D22, in the form of log 2. -/
def Obligations.FetchAtTheCeilingFaults : Prop :=
  (∀ s : State, s.engine = .running → 0xFFF ≤ s.pc.toNat →
    step s = .next { s with engine := .faulted ⟨.pcOutOfBounds, s.pc, none, none⟩ }) ∧
  ∀ s : State, s.engine = .running →
    ∃ t, exec (.jp 0xFFF#12) s = .next t ∧ t.engine = .running ∧ t.pc = 0xFFF#16

/-- 40_cycle.md, fetch (decision D1) and 30_encoding.md, illegal encodings (decision D4 for families 8 and
0xF): a fetch at 0xFFE faults on the byte 0xFFF, and an illegal word faults after it is latched; neither
changes anything else. -/
def Obligations.FetchAndDecodeFaults : Prop :=
  (∀ s : State, s.engine = .running → s.pc.toNat = 0xFFE →
    step s = .next { s with engine := .faulted ⟨.memOutOfBounds, s.pc, none, some 0xFFF⟩ }) ∧
  ∀ (s : State) (w : Word), s.engine = .running → s.pc.toNat < 0xFFE → s.wordAtPc = w →
    (∀ i, decodeWord w ≠ .ok i) →
    step s = .next
      { s with curWord := w, engine := .faulted ⟨.unrecognizedInstruction, s.pc, some w, none⟩ }

/-- 40_cycle.md R120: any number of cycles in AwaitingKey change nothing. -/
def Obligations.WaitingCyclesChangeNothing : Prop :=
  ∀ (s : State) (x : Reg) (k : Nat), s.engine = .awaitingKey x → core.run k s = .next s

/-- 40_cycle.md, "One cycle" (decision D31): any number of cycles in Faulted change nothing, and the result
the driver reads is the same fault. -/
def Obligations.FaultedCyclesReportTheSameFault : Prop :=
  ∀ (s : State) (f : FaultRecord) (k : Nat), s.engine = .faulted f →
    core.run k s = .next s ∧ s.cycleResult = some f

/-- Every cycle of every state answers a next state. That a faulting cycle does so, its fault an engine state
and not the outcome fault, is the model's reading of decision D6 (log 2); 40_cycle.md and 60_exceptions.md leave
no cycle without an effect. -/
def Obligations.EveryStepAnswersANextState : Prop := ∀ s : State, ∃ t, step s = .next t

/-- 40_cycle.md R118 with the timer step of 10_state.md R34: a cycle that stays Running ticks both timers
once, after an instruction that may have written one; a cycle that faults or begins to wait ticks neither. -/
def Obligations.TimersTickOncePerRunningCycle : Prop :=
  ∀ (s t : State) (i : Instr), s.About i → step s = .next t →
    (t.engine = .running →
      t.dt.toNat = (match i with | .ldDtV x => (s.getV x).toNat | _ => s.dt.toNat) - 1 ∧
      t.st.toNat = (match i with | .ldStV x => (s.getV x).toNat | _ => s.st.toNat) - 1) ∧
    (t.engine ≠ .running → t.dt = s.dt ∧ t.st = s.st)

/-- 40_cycle.md, "The engine state machine" (the third state is decision D6): Running goes to Running, to
AwaitingKey by Fx0A alone, or to Faulted; a cycle leaves neither of the others. -/
def Obligations.EngineTransitionsOfACycle : Prop :=
  ∀ s t : State, step s = .next t →
    match s.engine with
    | .running => t.engine = .running ∨
        (∃ x, s.About (.ldVK x) ∧ t.engine = .awaitingKey x ∧ t.pc = s.pc) ∨ ∃ f, t.engine = .faulted f
    | .awaitingKey x => t.engine = .awaitingKey x
    | .faulted f => t.engine = .faulted f

/-- 60_exceptions.md, "Priority and precision" (decision D6): after a fault `pc` and the record's `pc` are the
faulting instruction's address, and the timers, I, the stack and the latch are as before. -/
def Obligations.FaultsArePrecise : Prop :=
  ∀ (s t : State) (f : FaultRecord), s.engine = .running → step s = .next t → t.engine = .faulted f →
    t.pc = s.pc ∧ f.pc = s.pc ∧ t.dt = s.dt ∧ t.st = s.st ∧ t.i = s.i ∧ t.stack = s.stack ∧
    t.keys = s.keys

/-- 60_exceptions.md, faults and their priority (decisions D1 to D4, D6): a Running cycle takes exactly the
fault that `State.dueFault` computes from the table and the order of the checks, with exactly that record,
and none where it computes none. -/
def Obligations.CycleTakesExactlyTheDueFault : Prop :=
  ∀ s : State, s.engine = .running →
    ∃ t, step s = .next t ∧ ∀ f, t.engine = .faulted f ↔ s.dueFault = some f

/-! ## Control flow -/

/-- 41_control_flow.md R137: JP goes to the 12-bit address and changes nothing else. -/
def Obligations.JumpGoesToItsTarget : Prop :=
  ∀ (nnn : Addr) (s : State), ∃ t, exec (.jp nnn) s = .next t ∧ t.pc.toNat = nnn.toNat ∧
    OnlyChanges s t (· = .pc)

/-- 41_control_flow.md R143: JP V0 goes to the exact sum of V0 and the address, masked to no width. -/
def Obligations.JumpWithOffsetGoesToTheSum : Prop :=
  ∀ (nnn : Addr) (s : State), ∃ t, exec (.jpV0 nnn) s = .next t ∧
    t.pc.toNat = (s.getV 0).toNat + nnn.toNat ∧ OnlyChanges s t (· = .pc)

/-- 41_control_flow.md, CALL: the CALL's own address is pushed and control goes to the target; a full stack
of a bounded build faults instead (decision D3) and only the engine state changes. -/
def Obligations.CallPushesItsOwnAddress : Prop :=
  ∀ (nnn : Addr) (s : State),
    (s.cfg.stackCapacity ≠ some s.stack.length →
      ∃ t, exec (.call nnn) s = .next t ∧ t.stack = s.stack ++ [s.pc] ∧ t.pc.toNat = nnn.toNat ∧
        OnlyChanges s t (fun p => p = .pc ∨ p = .stack)) ∧
    (s.cfg.stackCapacity = some s.stack.length →
      ∃ t, exec (.call nnn) s = .next t ∧ t.engine = .faulted ⟨.stackOverflow, s.pc, some s.curWord, none⟩ ∧
        OnlyChanges s t (· = .engine))

/-- 41_control_flow.md, RET: the last pushed address is popped and control goes to the word after it; an
empty stack faults instead (decision D2) and only the engine state changes. -/
def Obligations.ReturnGoesPastTheCall : Prop :=
  (∀ (s : State) (rest : List Word) (v : Word), s.stack = rest ++ [v] →
    ∃ t, exec .ret s = .next t ∧ t.stack = rest ∧ t.pc = v + 2#16 ∧
      OnlyChanges s t (fun p => p = .pc ∨ p = .stack)) ∧
  ∀ s : State, s.stack = [] →
    ∃ t, exec .ret s = .next t ∧ t.engine = .faulted ⟨.stackUnderflow, s.pc, some s.curWord, none⟩ ∧
      OnlyChanges s t (· = .engine)

/-- 41_control_flow.md R139, R140: SE and SNE with an immediate move `pc` by 4 or 2 and change nothing else;
the words are `3xkk` and `4xkk`. -/
def Obligations.ImmediateSkips : Prop :=
  ∀ (x : Reg) (kk : Byte),
    decodeWord (wordXkk 0x3#4 x kk) = .ok (.seImm x kk) ∧
    decodeWord (wordXkk 0x4#4 x kk) = .ok (.sneImm x kk) ∧
    ∀ s : State,
      (∃ t, exec (.seImm x kk) s = .next t ∧
        t.pc = (if s.getV x = kk then s.pc + 4#16 else s.pc + 2#16) ∧ OnlyChanges s t (· = .pc)) ∧
      ∃ t, exec (.sneImm x kk) s = .next t ∧
        t.pc = (if s.getV x = kk then s.pc + 2#16 else s.pc + 4#16) ∧ OnlyChanges s t (· = .pc)

/-- 41_control_flow.md, SE Vx, Vy (decision D5 for its ignored nibble): the register-register skip; equal
register numbers always skip. -/
def Obligations.RegisterSkip : Prop :=
  ∀ (x y : Reg) (s : State), ∃ t, exec (.seReg x y) s = .next t ∧
    t.pc = (if x = y ∨ s.getV x = s.getV y then s.pc + 4#16 else s.pc + 2#16) ∧
    OnlyChanges s t (· = .pc)

/-- 41_control_flow.md, SNE Vx, Vy: the advance by `NINE_SKIP_MODE` (decision D7) and VF by `NINE_FLAG`
(decision D35), where the value of VF under Havoc is free (log 10). -/
def Obligations.FamilyNineByItsModes : Prop :=
  ∀ (x y : Reg) (s : State), ∃ t, exec (.sneReg x y) s = .next t ∧
    (s.cfg.nineSkipMode = .asWritten →
      t.pc = if s.getV x = s.getV y then s.pc else s.pc + 2#16) ∧
    (s.cfg.nineSkipMode = .conventional →
      t.pc = if s.getV x = s.getV y then s.pc + 2#16 else s.pc + 4#16) ∧
    (s.cfg.nineFlag = .havoc →
      t.getV 15 = Config.freeDraw8 s.draws ∧ t.draws = s.draws + 1 ∧
      OnlyChanges s t (fun p => p = .pc ∨ p = .reg 15 ∨ p = .draws)) ∧
    (s.cfg.nineFlag = .keep → OnlyChanges s t (· = .pc))

/-! ## Register loads and the ALU -/

/-- 42_alu.md R161: `6xkk` loads the byte, VF included as an ordinary destination, and advances by 2. -/
def Obligations.LoadImmediate : Prop :=
  ∀ (x : Reg) (kk : Byte), decodeWord (wordXkk 0x6#4 x kk) = .ok (.ldImm x kk) ∧
    ∀ s : State, ∃ t, exec (.ldImm x kk) s = .next t ∧ t.getV x = kk ∧ t.pc = s.pc + 2#16 ∧
      OnlyChanges s t (fun p => p = .reg x ∨ p = .pc)

/-- 42_alu.md R162: `7xkk` adds modulo 256 and writes no flag. -/
def Obligations.AddImmediateWrapsWithoutFlag : Prop :=
  ∀ (x : Reg) (kk : Byte), decodeWord (wordXkk 0x7#4 x kk) = .ok (.addImm x kk) ∧
    ∀ s : State, ∃ t, exec (.addImm x kk) s = .next t ∧
      (t.getV x).toNat = ((s.getV x).toNat + kk.toNat) % 256 ∧ t.pc = s.pc + 2#16 ∧
      OnlyChanges s t (fun p => p = .reg x ∨ p = .pc)

/-- 42_alu.md, 8xy0 to 8xy3 (VF unchanged is decision D11): copy and the bitwise operations, bit by bit. -/
def Obligations.CopyAndLogicKeepTheFlag : Prop :=
  ∀ (x y : Reg) (s : State),
    (∃ t, exec (.ldReg x y) s = .next t ∧ t.getV x = s.getV y ∧ t.pc = s.pc + 2#16 ∧
      OnlyChanges s t (fun p => p = .reg x ∨ p = .pc)) ∧
    (∃ t, exec (.orReg x y) s = .next t ∧ t.pc = s.pc + 2#16 ∧
      (∀ b < 8, (t.getV x).getLsbD b = ((s.getV x).getLsbD b || (s.getV y).getLsbD b)) ∧
      OnlyChanges s t (fun p => p = .reg x ∨ p = .pc)) ∧
    (∃ t, exec (.andReg x y) s = .next t ∧ t.pc = s.pc + 2#16 ∧
      (∀ b < 8, (t.getV x).getLsbD b = ((s.getV x).getLsbD b && (s.getV y).getLsbD b)) ∧
      OnlyChanges s t (fun p => p = .reg x ∨ p = .pc)) ∧
    ∃ t, exec (.xorReg x y) s = .next t ∧ t.pc = s.pc + 2#16 ∧
      (∀ b < 8, (t.getV x).getLsbD b = ((s.getV x).getLsbD b ^^ (s.getV y).getLsbD b)) ∧
      OnlyChanges s t (fun p => p = .reg x ∨ p = .pc)

/-- 42_alu.md, 8xy4: the sum modulo 256, and VF the carry, written last (decision D10): where x is VF the
flag stays. -/
def Obligations.AddSetsTheCarry : Prop :=
  ∀ (x y : Reg) (s : State), ∃ t, exec (.addReg x y) s = .next t ∧
    (x ≠ 15 → (t.getV x).toNat = ((s.getV x).toNat + (s.getV y).toNat) % 256) ∧
    (t.getV 15).toNat = (if 0xFF < (s.getV x).toNat + (s.getV y).toNat then 1 else 0) ∧
    t.pc = s.pc + 2#16 ∧ OnlyChanges s t (fun p => p = .reg x ∨ p = .reg 15 ∨ p = .pc)

/-- 42_alu.md, 8xy5 and 8xy7 (the reverse flag is the spec's inference "from rule R169 and the word
analogous"; flag last, decision D10): the difference modulo 256, and VF the strict comparison. -/
def Obligations.SubtractsSetTheStrictFlag : Prop :=
  ∀ (x y : Reg) (s : State),
    (∃ t, exec (.sub x y) s = .next t ∧
      (x ≠ 15 → (t.getV x).toNat = ((s.getV x).toNat + 256 - (s.getV y).toNat) % 256) ∧
      (t.getV 15).toNat = (if (s.getV y).toNat < (s.getV x).toNat then 1 else 0) ∧
      t.pc = s.pc + 2#16 ∧ OnlyChanges s t (fun p => p = .reg x ∨ p = .reg 15 ∨ p = .pc)) ∧
    ∃ t, exec (.subn x y) s = .next t ∧
      (x ≠ 15 → (t.getV x).toNat = ((s.getV y).toNat + 256 - (s.getV x).toNat) % 256) ∧
      (t.getV 15).toNat = (if (s.getV x).toNat < (s.getV y).toNat then 1 else 0) ∧
      t.pc = s.pc + 2#16 ∧ OnlyChanges s t (fun p => p = .reg x ∨ p = .reg 15 ∨ p = .pc)

/-- 42_alu.md, 8xy6 and 8xyE (V[x] shifted is decision D9; flag last, D10; `SHL_FLAG_MODE`, D8): the shifts by
one, VF the bit shifted out, but always 0 for SHL under AsWritten. -/
def Obligations.ShiftsByOne : Prop :=
  ∀ (x : Reg) (s : State),
    (∃ t, exec (.shr x) s = .next t ∧ (x ≠ 15 → (t.getV x).toNat = (s.getV x).toNat / 2) ∧
      (t.getV 15).toNat = (s.getV x).toNat % 2 ∧
      t.pc = s.pc + 2#16 ∧ OnlyChanges s t (fun p => p = .reg x ∨ p = .reg 15 ∨ p = .pc)) ∧
    ∃ t, exec (.shl x) s = .next t ∧ (x ≠ 15 → (t.getV x).toNat = 2 * (s.getV x).toNat % 256) ∧
      (s.cfg.shlFlagMode = .asWritten → t.getV 15 = 0#8) ∧
      (s.cfg.shlFlagMode = .bit7 → (t.getV 15).toNat = (s.getV x).toNat / 128) ∧
      t.pc = s.pc + 2#16 ∧ OnlyChanges s t (fun p => p = .reg x ∨ p = .reg 15 ∨ p = .pc)

/-- 42_alu.md, RND (decision D24): the destination is a fresh free byte under the mask, so 0 under the mask 0
and never more than the mask. -/
def Obligations.RandomByteUnderTheMask : Prop :=
  ∀ (x : Reg) (kk : Byte) (s : State), ∃ t, exec (.rnd x kk) s = .next t ∧
    t.getV x = Config.freeDraw8 s.draws &&& kk ∧ (t.getV x).toNat ≤ kk.toNat ∧ t.draws = s.draws + 1 ∧
    t.pc = s.pc + 2#16 ∧ OnlyChanges s t (fun p => p = .reg x ∨ p = .pc ∨ p = .draws)

/-! ## The address register, loads and stores -/

/-- 43_index_memory.md R191: `Annn` loads the 12-bit address into I. -/
def Obligations.LoadAddressRegister : Prop :=
  ∀ nnn : Addr, decodeWord (wordNnn 0xA#4 nnn) = .ok (.ldI nnn) ∧
    ∀ s : State, ∃ t, exec (.ldI nnn) s = .next t ∧ t.i.toNat = nnn.toNat ∧ t.pc = s.pc + 2#16 ∧
      OnlyChanges s t (fun p => p = .i ∨ p = .pc)

/-- 43_index_memory.md, ADD I, Vx (modulo 2^16 is decision D13): no flag is written. -/
def Obligations.AddToAddressRegisterWraps : Prop :=
  ∀ (x : Reg) (s : State), ∃ t, exec (.addI x) s = .next t ∧
    t.i.toNat = (s.i.toNat + (s.getV x).toNat) % 65536 ∧ t.pc = s.pc + 2#16 ∧
    OnlyChanges s t (fun p => p = .i ∨ p = .pc)

/-- 43_index_memory.md R193: `Fx29` sets I to five times the whole byte. -/
def Obligations.GlyphAddressIsFiveTimesTheByte : Prop :=
  ∀ x : Reg, decodeWord (wordXkk 0xF#4 x 0x29#8) = .ok (.ldF x) ∧
    ∀ s : State, ∃ t, exec (.ldF x) s = .next t ∧ t.i.toNat = 5 * (s.getV x).toNat ∧
      t.pc = s.pc + 2#16 ∧ OnlyChanges s t (fun p => p = .i ∨ p = .pc)

/-- 43_index_memory.md, LD B, Vx: with the three addresses in memory, the digits of the register in decimal. -/
def Obligations.DecimalDigitsAreStored : Prop :=
  ∀ (x : Reg) (s : State), s.i.toNat + 3 ≤ 4095 →
    ∃ t, exec (.ldB x) s = .next t ∧
      (t.mem.read s.i.toNat).toNat = (s.getV x).toNat / 100 ∧
      (t.mem.read (s.i.toNat + 1)).toNat = (s.getV x).toNat / 10 % 10 ∧
      (t.mem.read (s.i.toNat + 2)).toNat = (s.getV x).toNat % 10 ∧
      t.pc = s.pc + 2#16 ∧
      OnlyChanges s t (fun p => p = .pc ∨ ∃ a, p = .byte a ∧ s.i.toNat ≤ a ∧ a < s.i.toNat + 3)

/-- 43_index_memory.md, LD [I], Vx (I unchanged is decision D12): V0 to V[x] inclusive are stored from I on. -/
def Obligations.RegistersAreStored : Prop :=
  ∀ (x : Reg) (s : State), s.i.toNat + (x.val + 1) ≤ 4095 →
    ∃ t, exec (.ldMemV x) s = .next t ∧
      (∀ j : Reg, j.val ≤ x.val → t.mem.read (s.i.toNat + j.val) = s.getV j) ∧
      t.pc = s.pc + 2#16 ∧
      OnlyChanges s t (fun p => p = .pc ∨
        ∃ a, p = .byte a ∧ s.i.toNat ≤ a ∧ a < s.i.toNat + (x.val + 1))

/-- 43_index_memory.md, LD Vx, [I] (I unchanged is decision D12): V0 to V[x] inclusive are loaded from I on. -/
def Obligations.RegistersAreLoaded : Prop :=
  ∀ (x : Reg) (s : State), s.i.toNat + (x.val + 1) ≤ 4095 →
    ∃ t, exec (.ldVMem x) s = .next t ∧
      (∀ j : Reg, j.val ≤ x.val → t.getV j = s.mem.read (s.i.toNat + j.val)) ∧
      t.pc = s.pc + 2#16 ∧
      OnlyChanges s t (fun p => p = .pc ∨ ∃ j : Reg, p = .reg j ∧ j.val ≤ x.val)

/-- 43_index_memory.md, LD [I], Vx and LD Vx, [I]: registers stored and later loaded through the same I come
back, whatever happened to the registers in between (`u` has only the memory of the store and the I after it,
which is the I before it by decision D12). -/
def Obligations.StoredRegistersComeBack : Prop :=
  ∀ (x : Reg) (s u : State), s.i.toNat + (x.val + 1) ≤ 4095 →
    ∃ t, exec (.ldMemV x) s = .next t ∧
      (u.mem = t.mem → u.i = t.i →
        ∃ r, exec (.ldVMem x) u = .next r ∧ r.engine = u.engine ∧
          ∀ j : Reg, j.val ≤ x.val → r.getV j = s.getV j)

/-- 43_index_memory.md, LD B and LD [I] past memory (decision D1), with the earlier writes unspecified
(decision D6; log 11): the record names the first missing address, and each byte is the old one or, at an
address that exists, the one the instruction stores there before its fault. -/
def Obligations.FaultingStoreLeavesOldOrNewBytes : Prop :=
  ∀ (x : Reg) (s : State),
    (4095 < s.i.toNat + 3 →
      ∃ t, exec (.ldB x) s = .next t ∧
        t.engine = .faulted ⟨.memOutOfBounds, s.pc, some s.curWord, some (max s.i.toNat 4095)⟩ ∧
        (∀ a, t.mem.read a = s.mem.read a ∨
          (a = s.i.toNat ∧ a < 4095 ∧ (t.mem.read a).toNat = (s.getV x).toNat / 100) ∨
          (a = s.i.toNat + 1 ∧ a < 4095 ∧ (t.mem.read a).toNat = (s.getV x).toNat / 10 % 10)) ∧
        OnlyChanges s t (fun p => p = .engine ∨ p = .draws ∨ ∃ a, p = .byte a)) ∧
    (4095 < s.i.toNat + (x.val + 1) →
      ∃ t, exec (.ldMemV x) s = .next t ∧
        t.engine = .faulted ⟨.memOutOfBounds, s.pc, some s.curWord, some (max s.i.toNat 4095)⟩ ∧
        (∀ a, t.mem.read a = s.mem.read a ∨
          ∃ j : Reg, j.val < x.val ∧ a = s.i.toNat + j.val ∧ a < 4095 ∧ t.mem.read a = s.getV j) ∧
        OnlyChanges s t (fun p => p = .engine ∨ p = .draws ∨ ∃ a, p = .byte a))

/-- 43_index_memory.md, LD Vx, [I] past memory (decision D1), with the earlier loads unspecified (decision D6;
log 11): the record names the first missing address, and each register is the old one or, where its address
exists, the byte there. -/
def Obligations.FaultingLoadLeavesOldOrNewRegisters : Prop :=
  ∀ (x : Reg) (s : State), 4095 < s.i.toNat + (x.val + 1) →
    ∃ t, exec (.ldVMem x) s = .next t ∧
      t.engine = .faulted ⟨.memOutOfBounds, s.pc, some s.curWord, some (max s.i.toNat 4095)⟩ ∧
      (∀ j : Reg, t.getV j = s.getV j ∨
        (j.val < x.val ∧ s.i.toNat + j.val < 4095 ∧ t.getV j = s.mem.read (s.i.toNat + j.val))) ∧
      OnlyChanges s t (fun p => p = .engine ∨ p = .draws ∨ ∃ j, p = .reg j)

/-- 20_memory.md R76 (an inference the spec marks as derived): two neighbouring bytes that LD [I] stored are
the word a later fetch at their address reads. -/
def Obligations.StoredCodeIsFetched : Prop :=
  ∀ (x j k : Reg) (s : State), s.i.toNat + (x.val + 1) ≤ 4095 → k.val = j.val + 1 → k.val ≤ x.val →
    ∃ t, exec (.ldMemV x) s = .next t ∧
      (t.setPc (BitVec.ofNat 16 (s.i.toNat + j.val))).fetch = .word (joinBytes (s.getV j) (s.getV k))

/-! ## Display -/

/-- 44_display.md, CLS: `0?E0` turns every pixel off and makes every colour word `OFF_COLOR`; VF is not written.
That bits 11..8 are ignored is the spec's inference in 30_encoding.md on family 0 (log 13). -/
def Obligations.ClearDisplay : Prop :=
  (∀ x : Reg, decodeWord (wordXkk 0x0#4 x 0xE0#8) = .ok .cls) ∧
  ∀ s : State, ∃ t, exec .cls s = .next t ∧ (∀ k, t.pixel k = false ∧ t.colorAt k = s.cfg.offColor) ∧
    t.pc = s.pc + 2#16 ∧
    OnlyChanges s t (fun p => p = .pc ∨ ∃ k, p = .pixel k ∨ p = .colour k)

/-- 44_display.md, DRW (order and VF last, decision D10; bit 7 is column 0 by the spec's inference in its rule
on bit order): with every row in memory, the pixels under 1-bits are inverted and no other, wherever the linear
index puts them; each touched colour word is in step; VF is 1 exactly when a 1-bit met an on pixel. -/
def Obligations.DrawXorsTheSprite : Prop :=
  ∀ (x y : Reg) (n : Fin 16) (s : State), (n.val = 0 ∨ s.i.toNat + n.val ≤ 4095) →
    ∃ t, exec (.drw x y n) s = .next t ∧
      (∀ k, SpriteSets s x y n.val k → t.pixel k = !s.pixel k) ∧
      (∀ k, ¬ SpriteSets s x y n.val k → t.pixel k = s.pixel k) ∧
      (∀ k, SpriteTouches s x y n.val k →
        t.colorAt k = if t.pixel k = true then s.cfg.onColor else s.cfg.offColor) ∧
      ((∃ k, SpriteSets s x y n.val k ∧ s.pixel k = true) → t.getV 15 = 1#8) ∧
      ((¬ ∃ k, SpriteSets s x y n.val k ∧ s.pixel k = true) → t.getV 15 = 0#8) ∧
      t.pc = s.pc + 2#16 ∧
      OnlyChanges s t (fun p => p = .reg 15 ∨ p = .pc ∨
        ∃ k, SpriteTouches s x y n.val k ∧ (p = .pixel k ∨ p = .colour k))

/-- 44_display.md, "The draw is its own inverse" (an inference the spec marks as derived): a second draw of one
sprite at one position, the plane being as the first draw left it, restores the plane. `w` is the state before
the second draw: the state after the first wherever neither position register is VF (which the first draw
writes), and otherwise any state in which the position is as before. The second VF is 1 exactly when a 1-bit falls
on a pixel that was off at first; on an area that was clear, exactly when a 1-bit falls on a pixel at all, which
is the spec's sentence on the second VF (which fails where every such pixel was on at first: log 18). -/
def Obligations.DrawTwiceRestoresThePlane : Prop :=
  ∀ (x y : Reg) (n : Fin 16) (s : State), (n.val = 0 ∨ s.i.toNat + n.val ≤ 4095) →
    ∃ t, exec (.drw x y n) s = .next t ∧ t.i = s.i ∧ t.mem = s.mem ∧
      (x ≠ 15 → t.getV x = s.getV x) ∧ (y ≠ 15 → t.getV y = s.getV y) ∧
      ∀ w : State, w.i = s.i → w.mem = s.mem → w.getV x = s.getV x → w.getV y = s.getV y →
        (∀ k, w.pixel k = t.pixel k) →
        ∃ u, exec (.drw x y n) w = .next u ∧ (∀ k, u.pixel k = s.pixel k) ∧
          (u.getV 15 = 1#8 ↔ ∃ k, SpriteSets s x y n.val k ∧ s.pixel k = false) ∧
          ((∀ k, SpriteSets s x y n.val k → s.pixel k = false) →
            (u.getV 15 = 1#8 ↔ ∃ k, SpriteSets s x y n.val k))

/-- 44_display.md, DRW past memory (decision D1), with the pixels drawn before the fault and VF unspecified
(decision D6; log 11, log 12): the record names the first missing address; a pixel is the old one or inverted
under a 1-bit of an earlier row; nothing else changes. -/
def Obligations.FaultingDrawLeavesOldOrNewPixels : Prop :=
  ∀ (x y : Reg) (n : Fin 16) (s : State), n.val ≠ 0 → 4095 < s.i.toNat + n.val →
    ∃ t, exec (.drw x y n) s = .next t ∧
      t.engine = .faulted ⟨.memOutOfBounds, s.pc, some s.curWord, some (max s.i.toNat 4095)⟩ ∧
      (∀ k, t.pixel k = s.pixel k ∨ SpriteSets s x y (4095 - s.i.toNat) k) ∧
      OnlyChanges s t (fun p => p = .engine ∨ p = .draws ∨ p = .reg 15 ∨
        ∃ k, SpriteTouches s x y (4095 - s.i.toNat) k ∧ (p = .pixel k ∨ p = .colour k))

/-! ## Timers and keys -/

/-- 45_timers_input.md, Fx07, Fx15, Fx18: the instruction's own effect, before the cycle's tick. -/
def Obligations.TimerMoves : Prop :=
  ∀ (x : Reg) (s : State),
    (∃ t, exec (.ldVDt x) s = .next t ∧ t.getV x = s.dt ∧ t.pc = s.pc + 2#16 ∧
      OnlyChanges s t (fun p => p = .reg x ∨ p = .pc)) ∧
    (∃ t, exec (.ldDtV x) s = .next t ∧ t.dt = s.getV x ∧ t.pc = s.pc + 2#16 ∧
      OnlyChanges s t (fun p => p = .dt ∨ p = .pc)) ∧
    ∃ t, exec (.ldStV x) s = .next t ∧ t.st = s.getV x ∧ t.pc = s.pc + 2#16 ∧
      OnlyChanges s t (fun p => p = .st ∨ p = .pc)

/-- 45_timers_input.md, Ex9E and ExA1: the skips on the latch; a number of 16 or more names no key and is not
held (decision D14). -/
def Obligations.KeySkips : Prop :=
  ∀ (x : Reg) (s : State),
    let held := ∃ k : Key, k.val = (s.getV x).toNat ∧ s.key k = true
    ∃ t u, exec (.skp x) s = .next t ∧ exec (.sknp x) s = .next u ∧
      (held → t.pc = s.pc + 4#16 ∧ u.pc = s.pc + 2#16) ∧
      (¬ held → t.pc = s.pc + 2#16 ∧ u.pc = s.pc + 4#16) ∧
      OnlyChanges s t (· = .pc) ∧ OnlyChanges s u (· = .pc)

/-- 45_timers_input.md R236: Fx0A begins the wait for its register; V[x], pc and everything else stay,
whatever the latch holds. -/
def Obligations.KeyWaitBegins : Prop :=
  ∀ (x : Reg) (s : State), ∃ t, exec (.ldVK x) s = .next t ∧ t.engine = .awaitingKey x ∧
    OnlyChanges s t (· = .engine)

/-- 45_timers_input.md, Fx0A, and 40_cycle.md: the round trip of a key wait. The Fx0A cycle waits with pc and
timers kept, any number of cycles change nothing, and a delivery writes the register and lets the engine run,
at the next word under Advance and at the Fx0A under Refetch (decision D15). -/
def Obligations.KeyWaitRoundTrip : Prop :=
  ∀ (x : Reg) (k : Key) (n : Nat) (s : State), s.About (.ldVK x) →
    ∃ t, step s = .next t ∧ core.run n t = .next t ∧ t.engine = .awaitingKey x ∧
      t.pc = s.pc ∧ t.dt = s.dt ∧ t.st = s.st ∧
      (t.deliverKey k).engine = .running ∧ ((t.deliverKey k).getV x).toNat = k.val ∧
      (s.cfg.fx0aResume = .advance → (t.deliverKey k).pc = s.pc + 2#16) ∧
      (s.cfg.fx0aResume = .refetch → (t.deliverKey k).pc = s.pc) ∧
      OnlyChanges s (t.deliverKey k) (fun p => p = .reg x ∨ p = .pc ∨ p = .curWord)

/-- 45_timers_input.md R237: `set_key` writes its key of the latch and nothing else, in any engine state. -/
def Obligations.SetKeyWritesOneKey : Prop :=
  ∀ (k : Key) (held : Bool) (s : State), ∃ t, (DriverOp.setKey k held).apply s = .next t ∧
    t.key k = held ∧ OnlyChanges s t (· = .key k)

/-- 45_timers_input.md, `deliver_key` (decision D15 for pc): a waiting engine takes the key into its register,
runs again and ticks nothing; any other engine is left as it was. -/
def Obligations.DeliverKeyEndsOnlyAWait : Prop :=
  ∀ (k : Key) (s : State), ∃ t, (DriverOp.deliverKey k).apply s = .next t ∧
    (∀ x, s.engine = .awaitingKey x →
      (t.getV x).toNat = k.val ∧ t.engine = .running ∧
      t.pc = (if s.cfg.fx0aResume = .advance then s.pc + 2#16 else s.pc) ∧
      OnlyChanges s t (fun p => p = .reg x ∨ p = .engine ∨ p = .pc)) ∧
    ((∀ x, s.engine ≠ .awaitingKey x) → t = s)

/-- 40_cycle.md, the bulk-disassembly side effect (decision D32): pc becomes 0x200 in any engine state, and
nothing else changes. -/
def Obligations.DisassemblyResetsOnlyThePc : Prop :=
  ∀ s : State, ∃ t, DriverOp.disasmResetPc.apply s = .next t ∧ t.pc = 0x200#16 ∧
    OnlyChanges s t (· = .pc)

/-! ## Construction -/

/-- 70_reset_and_hazards.md, `construct` (decision D17 for `INIT_MEM`): the image verbatim from 0x200 on, the
font at 0x000..0x04F, and `INIT_MEM` everywhere else. -/
def Obligations.ConstructionLaysOutMemory : Prop :=
  ∀ (c : Config) (l : Launch) (image : List Byte) (d : Nat), image.length ≤ 3583 →
    ∃ t, construct c l image d = .next t ∧
      (∀ (j : Nat) (h : j < image.length), t.mem.read (0x200 + j) = image[j]) ∧
      (∀ j : Fin 80, t.mem.read j.val = l.font.get j) ∧
      ∀ a, 80 ≤ a → a < 4095 → a < 0x200 ∨ 0x200 + image.length ≤ a →
        t.mem.read a = Mem.read l.initMem a

/-- 70_reset_and_hazards.md, `construct` (decisions D16 to D21): the rest of the machine, for every launch
value; the loader error; and the state after reset as the machine with the runner's values (log 5 to 9). -/
def Obligations.ConstructionSetsTheMachine : Prop :=
  (∀ (c : Config) (l : Launch) (image : List Byte) (d : Nat), image.length ≤ 3583 →
    ∃ t, construct c l image d = .next t ∧ t.v = l.initV ∧ t.i = l.initI ∧ t.dt = l.initDt ∧
      t.st = l.initSt ∧ t.keys = l.initKeys ∧ t.pc = 0x200#16 ∧ t.stack = [] ∧ t.engine = .running ∧
      (∀ k, t.pixel k = false ∧ t.colorAt k = c.offColor) ∧ t.cfg = c) ∧
  (∀ (c : Config) (l : Launch) (image : List Byte) (d : Nat), 3583 < image.length →
    construct c l image d = .refused .imageTooLong) ∧
  construct hardware runner [] 0 = .next State.reset

/-! ## Invariants and whole-machine rules -/

/-- The invariant holds after reset. -/
def Obligations.ResetMeetsTheInvariant : Prop := Inv State.reset

/-- Every cycle keeps the invariant: canonical memory, the colour buffer in step with the plane (10_state.md
R39), pc at most 0x10FE (R27), fetchable return addresses, the stack within its capacity, and a fault record
that says what its kind may. -/
def Obligations.StepKeepsTheInvariant : Prop := ∀ s t : State, Inv s → step s = .next t → Inv t

/-- Every driver operation keeps the invariant, a reconstruction among them, and every construction meets
it (40_cycle.md R126, R127). -/
def Obligations.DriverKeepsTheInvariant : Prop :=
  (∀ (op : DriverOp) (s t : State), Inv s → op.apply s = .next t → Inv t) ∧
  ∀ (c : Config) (l : Launch) (image : List Byte) (d : Nat) (t : State),
    construct c l image d = .next t → Inv t

/-- 10_state.md R23, R25, R28, R33, R35, R36, R38 and 20_memory.md R70: an instruction of a Running engine that
does not fault changes only the parts the tables give it, and every other part of the machine, each byte of
memory and each pixel among them, is unchanged. Two of the parts are the model's: the parameters, which a state
carries read-only (log 3), and the counter of free values, which RND and 9xyn under Havoc move (log 10). -/
def Obligations.InstructionChangesOnlyItsParts : Prop :=
  ∀ (i : Instr) (s t : State), s.engine = .running → exec i s = .next t → t.Safe →
    OnlyChanges s t (mayChange i s)

/-- 10_state.md, Keyboard latch and Call stack: no cycle changes the latch, and only CALL and RET change the
stack. That no cycle changes a parameter rests on the model's carrying them read-only in the state (log 3); the
spec has no control register an instruction could write them through (10_state.md, What is not state). -/
def Obligations.OnlyTheDriverWritesTheLatch : Prop :=
  ∀ s t : State, step s = .next t → t.keys = s.keys ∧ t.cfg = s.cfg ∧
    (t.stack ≠ s.stack → s.About .ret ∨ ∃ nnn, s.About (.call nnn))

/-- 40_cycle.md, end state (c) (an inference the spec marks as derived): at a jump to itself every number of
cycles leaves everything but the timers, which count down to 0, and cur_word, which holds the jump. -/
def Obligations.JumpToSelfOnlyCountsDown : Prop :=
  ∀ (s : State) (k : Nat), s.JumpsToSelf → ∃ t, core.run k s = .next t ∧
    t.dt.toNat = s.dt.toNat - k ∧ t.st.toNat = s.st.toNat - k ∧
    OnlyChanges s t (fun p => p = .dt ∨ p = .st ∨ p = .curWord)

/-- 40_cycle.md, end state (d), and 41_control_flow.md, SNE Vx, Vy (decisions D7, D35): under AsWritten equal
operands stall the engine for ever. Under Havoc this needs operands that the free VF does not disturb: the
spec's sentence that the engine never leaves it is about those (log 17). -/
def Obligations.EqualFamilyNineStalls : Prop :=
  ∀ (s : State) (x y : Reg) (k : Nat), s.StallsAtNine x y →
    (s.cfg.nineFlag = .keep ∨ x = y ∨ (x ≠ 15 ∧ y ≠ 15)) →
    ∃ t, core.run k s = .next t ∧ t.StallsAtNine x y ∧
      t.dt.toNat = s.dt.toNat - k ∧ t.st.toNat = s.st.toNat - k ∧
      OnlyChanges s t (fun p => p = .dt ∨ p = .st ∨ p = .curWord ∨
        (s.cfg.nineFlag = .havoc ∧ (p = .reg 15 ∨ p = .draws)))
end

