-- ==== Sys2Proof/Laws/Encoding.lean ====
section
/-! SUPPORT. The fields of an encoded word, and which words the decoder takes. -/

namespace Sys2Proof

section Append
variable {n m : Nat} (hi : BitVec n) (lo : BitVec m)

/-- The low field of a joined word. -/
theorem extract_append_low : (hi ++ lo).extractLsb' 0 m = lo := by
  refine BitVec.eq_of_getLsbD_eq fun k hk => ?_
  simp [BitVec.getLsbD_append, hk]

/-- The high field of a joined word. -/
theorem extract_append_high : (hi ++ lo).extractLsb' m n = hi := by
  refine BitVec.eq_of_getLsbD_eq fun k hk => ?_
  simp [BitVec.getLsbD_append, hk]

/-- A field of the low part of a joined word. -/
theorem extract_append_inner (start len : Nat) (h : start + len ≤ m) :
    (hi ++ lo).extractLsb' start len = lo.extractLsb' start len := by
  refine BitVec.eq_of_getLsbD_eq fun k hk => ?_
  have : start + k < m := by omega
  simp [BitVec.getLsbD_append, this]

end Append

@[simp] theorem nibble_field4 (r : Fin 16) : nibble (field4 r) = r := rfl

@[simp] theorem field4_nibble (b : BitVec 4) : field4 (nibble b) = b := rfl

section Fields
variable (f : BitVec 4) (x y : Reg) (n : BitVec 4) (kk : Byte) (nnn : Addr)

@[simp] theorem family_wordNnn : (wordNnn f nnn).extractLsb' 12 4 = f := extract_append_high f nnn

@[simp] theorem nnn_wordNnn : (wordNnn f nnn).extractLsb' 0 12 = nnn := extract_append_low f nnn

@[simp] theorem family_wordXkk : (wordXkk f x kk).extractLsb' 12 4 = f := extract_append_high f _

@[simp] theorem x_wordXkk : (wordXkk f x kk).extractLsb' 8 4 = field4 x :=
  (extract_append_inner f _ 8 4 (by omega)).trans (extract_append_high (field4 x) kk)

@[simp] theorem kk_wordXkk : (wordXkk f x kk).extractLsb' 0 8 = kk :=
  (extract_append_inner f _ 0 8 (by omega)).trans (extract_append_low (field4 x) kk)

@[simp] theorem family_wordXyn : (wordXyn f x y n).extractLsb' 12 4 = f := family_wordXkk f x _

@[simp] theorem x_wordXyn : (wordXyn f x y n).extractLsb' 8 4 = field4 x := x_wordXkk f x _

@[simp] theorem y_wordXyn : (wordXyn f x y n).extractLsb' 4 4 = field4 y :=
  (extract_append_inner f _ 4 4 (by omega)).trans
    ((extract_append_inner (field4 x) _ 4 4 (by omega)).trans (extract_append_high (field4 y) n))

@[simp] theorem n_wordXyn : (wordXyn f x y n).extractLsb' 0 4 = n :=
  (extract_append_inner f _ 0 4 (by omega)).trans
    ((extract_append_inner (field4 x) _ 0 4 (by omega)).trans (extract_append_low (field4 y) n))

end Fields

section Joined
variable (hi lo : Byte)

@[simp] theorem highByte_join : highByte (joinBytes hi lo) = hi := extract_append_high hi lo

@[simp] theorem lowByte_join : lowByte (joinBytes hi lo) = lo := extract_append_low hi lo

/-- Every word is its two bytes joined. -/
@[simp] theorem join_bytes (w : Word) : joinBytes (highByte w) (lowByte w) = w := by
  refine BitVec.eq_of_getLsbD_eq fun k hk => ?_
  unfold joinBytes highByte lowByte
  rw [BitVec.getLsbD_append]
  by_cases h : k < 8
  · simp [h]
  · have h8 : k - 8 < 8 := by omega
    simp [h, h8, show 8 + (k - 8) = k by omega]

end Joined

theorem decodeBytes_join (hi lo : Byte) (rest : List Byte) :
    decodeBytes (hi :: lo :: rest) =
      match decodeWord (joinBytes hi lo) with
      | .ok i => .ok (i, rest)
      | .error e => .error e := rfl

/-- The words of the table's rows, as the host numbers their bits. -/
theorem decodeTableWord_eq (nbits w : Nat) :
    decodeTableWord nbits w = (decodeWord (tableWord nbits w)).toOption := by
  unfold decodeTableWord
  rw [decodeBytes_join, join_bytes]
  cases decodeWord (tableWord nbits w) <;> rfl

theorem dispatchZero_spec (d : Fields) :
    (family0Legal d.kk = true ∧ ∃ i, dispatchZero d = .ok i) ∨
    (family0Legal d.kk = false ∧ dispatchZero d = .error (.unrecognized d.word)) := by
  unfold dispatchZero
  split <;> simp_all [family0Legal]

theorem dispatchKey_spec (d : Fields) :
    (familyELegal d.kk = true ∧ ∃ i, dispatchKey d = .ok i) ∨
    (familyELegal d.kk = false ∧ dispatchKey d = .error (.unrecognized d.word)) := by
  unfold dispatchKey
  split <;> simp_all [familyELegal]

theorem dispatchMisc_spec (d : Fields) :
    (familyFLegal d.kk = true ∧ ∃ i, dispatchMisc d = .ok i) ∨
    (familyFLegal d.kk = false ∧ dispatchMisc d = .error (.unrecognized d.word)) := by
  unfold dispatchMisc
  split <;> simp_all [familyFLegal]

theorem family8Legal_iff (n : BitVec 4) : family8Legal n = true ↔
    n = 0x0#4 ∨ n = 0x1#4 ∨ n = 0x2#4 ∨ n = 0x3#4 ∨ n = 0x4#4 ∨ n = 0x5#4 ∨ n = 0x6#4 ∨ n = 0x7#4 ∨
      n = 0xE#4 := by
  revert n; decide

theorem dispatchAlu_spec (d : Fields) :
    (family8Legal d.n = true ∧ ∃ i, dispatchAlu d = .ok i) ∨
    (family8Legal d.n = false ∧ dispatchAlu d = .error (.unrecognized d.word)) := by
  unfold dispatchAlu
  rw [← Bool.not_eq_true, family8Legal_iff]
  split <;> simp_all

/-- The decoder takes exactly the words that 30_encoding.md R98 does not list. -/
theorem decodeWord_spec (w : Word) :
    (wellFormedWord w = true ∧ ∃ i, decodeWord w = .ok i) ∨
    (wellFormedWord w = false ∧ decodeWord w = .error (.unrecognized w)) := by
  have h0 := dispatchZero_spec (decodeFields w false)
  have h8 := dispatchAlu_spec (decodeFields w false)
  have hE := dispatchKey_spec (decodeFields w false)
  have hF := dispatchMisc_spec (decodeFields w false)
  generalize hf : w.extractLsb' 12 4 = f
  have hfam : (decodeFields w false).family = f := hf
  unfold decodeWord dispatch wellFormedWord
  rw [hf, hfam]
  have all : ∀ g : BitVec 4, g = 0x0#4 ∨ g = 0x1#4 ∨ g = 0x2#4 ∨ g = 0x3#4 ∨ g = 0x4#4 ∨ g = 0x5#4 ∨
      g = 0x6#4 ∨ g = 0x7#4 ∨ g = 0x8#4 ∨ g = 0x9#4 ∨ g = 0xA#4 ∨ g = 0xB#4 ∨ g = 0xC#4 ∨ g = 0xD#4 ∨
      g = 0xE#4 ∨ g = 0xF#4 := by decide
  rcases all f with rfl | rfl | rfl | rfl | rfl | rfl | rfl | rfl | rfl | rfl | rfl | rfl | rfl | rfl |
    rfl | rfl
  all_goals first
    | exact h0
    | exact h8
    | exact hE
    | exact hF
    | exact .inl ⟨rfl, _, rfl⟩

end Sys2Proof
end

