-- ==== Sys2Proof/Laws/Memory.lean ====
section
/-! SUPPORT. Memory: a read after a write, and that every memory operation keeps the canonical form. -/

namespace Sys2Proof.Machine

theorem Mem.read_erase (m : Mem) (a c : Nat) :
    (m.erase a).read c = if c = a then background a else m.read c := by
  induction m with
  | nil => by_cases h : c = a <;> simp [Mem.erase, Mem.read, h]
  | cons cell rest ih =>
    obtain ⟨k, b⟩ := cell
    by_cases hk : k = a
    · subst hk
      by_cases hc : c = k
      · subst hc; simpa [Mem.erase] using ih
      · simp [Mem.erase, Mem.read, ih, hc, Ne.symm hc]
    · by_cases hc : k = c
      · subst hc; simp [Mem.erase, Mem.read, hk]
      · simp [Mem.erase, Mem.read, hk, hc, ih]

/-- Inserting is read back where no cell of the address stands before. -/
theorem Mem.read_insert (m : Mem) (a : Nat) (b : Byte) (c : Nat)
    (h : ∀ cell ∈ m, cell.1 ≠ a) :
    (m.insert a b).read c = if c = a then b else m.read c := by
  induction m with
  | nil =>
    by_cases hc : c = a
    · simp [Mem.insert, Mem.read, hc]
    · simp [Mem.insert, Mem.read, hc, Ne.symm hc]
  | cons cell rest ih =>
    obtain ⟨k, x⟩ := cell
    have hk : k ≠ a := h (k, x) (by simp)
    have ih := ih (fun cell hc => h cell (by simp [hc]))
    by_cases hlt : a < k
    · by_cases hc : c = a
      · simp [Mem.insert, Mem.read, hlt, hc]
      · simp [Mem.insert, Mem.read, hlt, hc, Ne.symm hc]
    · by_cases hc : k = c
      · subst hc; simp [Mem.insert, Mem.read, hlt, hk]
      · simp [Mem.insert, Mem.read, hlt, hc, ih]

theorem Mem.erase_free (m : Mem) (a : Nat) : ∀ cell ∈ m.erase a, cell.1 ≠ a := by
  induction m with
  | nil => simp [Mem.erase]
  | cons cell rest ih =>
    obtain ⟨k, b⟩ := cell
    by_cases hk : k = a
    · simpa [Mem.erase, hk] using ih
    · intro cell hc
      rcases List.mem_cons.mp (by simpa [Mem.erase, hk] using hc) with rfl | hc
      · exact hk
      · exact ih cell hc

/-- Read after write, at every address (20_memory.md R74). -/
theorem Mem.read_write (m : Mem) (a : Nat) (b : Byte) (c : Nat) :
    (m.write a b).read c = if c = a then b else m.read c := by
  unfold Mem.write
  split
  · rename_i hb
    rw [Mem.read_erase, hb]
  · rw [Mem.read_insert _ _ _ _ (Mem.erase_free m a), Mem.read_erase]
    by_cases hc : c = a <;> simp [hc]

/-- A byte outside the written range is unchanged. -/
theorem Mem.read_writeBytes_out (bs : List Byte) :
    ∀ (m : Mem) (a c : Nat), (c < a ∨ a + bs.length ≤ c) → (m.writeBytes a bs).read c = m.read c := by
  induction bs with
  | nil => intros; rfl
  | cons b bs ih =>
    intro m a c h
    simp only [List.length_cons] at h
    rw [Mem.writeBytes, ih _ _ _ (by omega), Mem.read_write, if_neg (by omega)]

/-- The byte at offset `j` of the written range is the `j`-th byte. -/
theorem Mem.read_writeBytes_in (bs : List Byte) :
    ∀ (m : Mem) (a j : Nat) (h : j < bs.length), (m.writeBytes a bs).read (a + j) = bs[j] := by
  induction bs with
  | nil => intro m a j h; simp at h
  | cons b bs ih =>
    intro m a j h
    cases j with
    | zero =>
      rw [Mem.writeBytes, Mem.read_writeBytes_out _ _ _ _ (by omega), Mem.read_write]
      simp
    | succ j =>
      have h' : j < bs.length := by simpa using h
      rw [Mem.writeBytes, show a + (j + 1) = a + 1 + j by omega, ih _ _ _ h']
      simp

/-- Writing bytes and reading any address. -/
theorem Mem.read_writeBytes (m : Mem) (a : Nat) (bs : List Byte) (c : Nat) :
    (m.writeBytes a bs).read c =
      if h : a ≤ c ∧ c - a < bs.length then bs[c - a]'h.2 else m.read c := by
  split
  · rename_i h
    have := Mem.read_writeBytes_in bs m a (c - a) h.2
    rwa [show a + (c - a) = c by omega] at this
  · rename_i h
    exact Mem.read_writeBytes_out _ _ _ _ (by omega)

theorem Mem.wfFrom_mono {lo lo' : Nat} (h : lo' ≤ lo) :
    ∀ {m : Mem}, Mem.wfFrom lo m = true → Mem.wfFrom lo' m = true
  | [], _ => rfl
  | (k, b) :: rest, hm => by
    simp only [Mem.wfFrom, Bool.and_eq_true, decide_eq_true_eq, bne_iff_ne] at hm ⊢
    exact ⟨⟨⟨by omega, hm.1.1.2⟩, hm.1.2⟩, hm.2⟩

theorem Mem.wfFrom_erase (a : Nat) :
    ∀ {lo : Nat} {m : Mem}, Mem.wfFrom lo m = true → Mem.wfFrom lo (m.erase a) = true
  | _, [], _ => rfl
  | lo, (k, b) :: rest, hm => by
    simp only [Mem.wfFrom, Bool.and_eq_true, decide_eq_true_eq, bne_iff_ne] at hm
    have ih := Mem.wfFrom_erase a hm.2
    by_cases hk : k = a
    · simp only [Mem.erase, hk, if_true]
      exact Mem.wfFrom_mono (by omega) ih
    · simp only [Mem.erase, hk, if_false, Mem.wfFrom, Bool.and_eq_true, decide_eq_true_eq, bne_iff_ne]
      exact ⟨hm.1, ih⟩

theorem Mem.wfFrom_insert {a : Nat} {b : Byte} (ha : addrExists a = true) (hb : b ≠ background a) :
    ∀ {lo : Nat} {m : Mem}, lo ≤ a → (∀ cell ∈ m, cell.1 ≠ a) → Mem.wfFrom lo m = true →
      Mem.wfFrom lo (m.insert a b) = true
  | lo, [], hlo, _, _ => by simp [Mem.insert, Mem.wfFrom, hlo, ha, hb]
  | lo, (k, c) :: rest, hlo, hfree, hm => by
    have hk : k ≠ a := hfree (k, c) (by simp)
    have hm' := hm
    simp only [Mem.wfFrom, Bool.and_eq_true, decide_eq_true_eq, bne_iff_ne] at hm
    by_cases hlt : a < k
    · simp only [Mem.insert, hlt, if_true]
      rw [Mem.wfFrom]
      simp only [Bool.and_eq_true, decide_eq_true_eq, bne_iff_ne]
      refine ⟨⟨⟨hlo, ha⟩, hb⟩, ?_⟩
      simp only [Mem.wfFrom, Bool.and_eq_true, decide_eq_true_eq, bne_iff_ne]
      exact ⟨⟨⟨hlt, hm.1.1.2⟩, hm.1.2⟩, hm.2⟩
    · simp only [Mem.insert, hlt, if_false, Mem.wfFrom, Bool.and_eq_true, decide_eq_true_eq, bne_iff_ne]
      exact ⟨hm.1, Mem.wfFrom_insert ha hb (by omega)
        (fun cell hc => hfree cell (by simp [hc])) hm.2⟩

/-- Writing an existing address keeps the canonical form. -/
theorem Mem.wf_write {m : Mem} {a : Nat} {b : Byte} (ha : addrExists a = true) (hm : m.wf = true) :
    (m.write a b).wf = true := by
  unfold Mem.write
  split
  · exact Mem.wfFrom_erase a hm
  · rename_i hb
    exact Mem.wfFrom_insert ha hb (by omega) (Mem.erase_free m a) (Mem.wfFrom_erase a hm)

theorem addrExists_iff (a : Nat) : addrExists a = true ↔ a < 4095 := by
  unfold addrExists
  exact decide_eq_true_iff

/-- Writing bytes at existing addresses keeps the canonical form. -/
theorem Mem.wf_writeBytes (bs : List Byte) :
    ∀ {m : Mem} {a : Nat}, (bs = [] ∨ a + bs.length ≤ 4095) → m.wf = true → (m.writeBytes a bs).wf = true := by
  induction bs with
  | nil => intro m a _ hm; exact hm
  | cons b bs ih =>
    intro m a h hm
    have h : a + (bs.length + 1) ≤ 4095 := by simpa using h
    rw [Mem.writeBytes]
    refine ih ?_ (Mem.wf_write ((addrExists_iff a).mpr (by omega)) hm)
    right; omega

/-- The memory of listed cells is canonical. -/
theorem Mem.wf_ofCells : ∀ cells : List (Nat × Byte), (Mem.ofCells cells).wf = true
  | [] => rfl
  | (a, b) :: rest => by
    by_cases ha : addrExists a = true
    · simpa [Mem.ofCells, ha] using Mem.wf_write ha (Mem.wf_ofCells rest)
    · simpa [Mem.ofCells, ha] using Mem.wf_ofCells rest

/-- The memory of listed cells reads as the list does. -/
theorem Mem.read_ofCells {a : Nat} (ha : a < 4095) :
    ∀ cells : List (Nat × Byte), (Mem.ofCells cells).read a = Mem.read cells a
  | [] => rfl
  | (k, b) :: rest => by
    have ih := Mem.read_ofCells ha rest
    by_cases hk : addrExists k = true
    · by_cases hc : k = a
      · simp [Mem.ofCells, Mem.read_write, Mem.read, hc, (addrExists_iff a).mpr ha]
      · simp [Mem.ofCells, hk, Mem.read_write, Mem.read, hc, Ne.symm hc, ih]
    · have hc : k ≠ a := by
        rintro rfl
        exact hk ((addrExists_iff k).mpr ha)
      simp [Mem.ofCells, hk, Mem.read, hc, ih]

end Sys2Proof.Machine
end

