-- ==== Sys2Proof/Laws/Params.lean ====
section
/-! SUPPORT. The bounds that the widths and counts of 00_scope.md R5 give, as numerals: `simp` reads a field of
`params` by itself, `omega` needs these. -/

namespace Sys2Proof

theorem reg_lt (r : Reg) : r.val < 16 := r.isLt

theorem key_lt (k : Key) : k.val < 16 := k.isLt

theorem pixel_lt (k : Pixel) : k.val < 2048 := k.isLt

theorem pcWord_lt (w : PcWord) : w.toNat < 65536 := w.isLt

theorem iWord_lt (w : IWord) : w.toNat < 65536 := w.isLt

theorem timer_lt (t : Timer) : t.toNat < 256 := t.isLt

@[simp] theorem flagReg_eq : flagReg = 15 := rfl

end Sys2Proof
end

