-- ==== Sys2Proof/Laws/State.lean ====
section
/-! SUPPORT. One lemma per field per update, so that no proof unfolds a record update. -/

namespace Sys2Proof.Machine

variable (s : State)

@[simp] theorem State.setV_i (r : Reg) (b : Byte) : (s.setV r b).i = s.i := rfl
@[simp] theorem State.setV_pc (r : Reg) (b : Byte) : (s.setV r b).pc = s.pc := rfl
@[simp] theorem State.setV_stack (r : Reg) (b : Byte) : (s.setV r b).stack = s.stack := rfl
@[simp] theorem State.setV_dt (r : Reg) (b : Byte) : (s.setV r b).dt = s.dt := rfl
@[simp] theorem State.setV_st (r : Reg) (b : Byte) : (s.setV r b).st = s.st := rfl
@[simp] theorem State.setV_keys (r : Reg) (b : Byte) : (s.setV r b).keys = s.keys := rfl
@[simp] theorem State.setV_engine (r : Reg) (b : Byte) : (s.setV r b).engine = s.engine := rfl
@[simp] theorem State.setV_plane (r : Reg) (b : Byte) : (s.setV r b).plane = s.plane := rfl
@[simp] theorem State.setV_color (r : Reg) (b : Byte) : (s.setV r b).color = s.color := rfl
@[simp] theorem State.setV_curWord (r : Reg) (b : Byte) : (s.setV r b).curWord = s.curWord := rfl
@[simp] theorem State.setV_mem (r : Reg) (b : Byte) : (s.setV r b).mem = s.mem := rfl
@[simp] theorem State.setV_cfg (r : Reg) (b : Byte) : (s.setV r b).cfg = s.cfg := rfl
@[simp] theorem State.setV_draws (r : Reg) (b : Byte) : (s.setV r b).draws = s.draws := rfl
@[simp] theorem State.setV_pixel (r : Reg) (b : Byte) (k' : Pixel) : (s.setV r b).pixel k' = s.pixel k' := rfl
@[simp] theorem State.setV_colorAt (r : Reg) (b : Byte) (k' : Pixel) : (s.setV r b).colorAt k' = s.colorAt k' := rfl
@[simp] theorem State.setV_key (r : Reg) (b : Byte) (k' : Key) : (s.setV r b).key k' = s.key k' := rfl
@[simp] theorem State.setV_base (r : Reg) (b : Byte) : (s.setV r b).base = s.base := rfl

@[simp] theorem State.setI_v (w : IWord) : (s.setI w).v = s.v := rfl
@[simp] theorem State.setI_i (w : IWord) : (s.setI w).i = w := rfl
@[simp] theorem State.setI_pc (w : IWord) : (s.setI w).pc = s.pc := rfl
@[simp] theorem State.setI_stack (w : IWord) : (s.setI w).stack = s.stack := rfl
@[simp] theorem State.setI_dt (w : IWord) : (s.setI w).dt = s.dt := rfl
@[simp] theorem State.setI_st (w : IWord) : (s.setI w).st = s.st := rfl
@[simp] theorem State.setI_keys (w : IWord) : (s.setI w).keys = s.keys := rfl
@[simp] theorem State.setI_engine (w : IWord) : (s.setI w).engine = s.engine := rfl
@[simp] theorem State.setI_plane (w : IWord) : (s.setI w).plane = s.plane := rfl
@[simp] theorem State.setI_color (w : IWord) : (s.setI w).color = s.color := rfl
@[simp] theorem State.setI_curWord (w : IWord) : (s.setI w).curWord = s.curWord := rfl
@[simp] theorem State.setI_mem (w : IWord) : (s.setI w).mem = s.mem := rfl
@[simp] theorem State.setI_cfg (w : IWord) : (s.setI w).cfg = s.cfg := rfl
@[simp] theorem State.setI_draws (w : IWord) : (s.setI w).draws = s.draws := rfl
@[simp] theorem State.setI_getV (w : IWord) (r' : Reg) : (s.setI w).getV r' = s.getV r' := rfl
@[simp] theorem State.setI_pixel (w : IWord) (k' : Pixel) : (s.setI w).pixel k' = s.pixel k' := rfl
@[simp] theorem State.setI_colorAt (w : IWord) (k' : Pixel) : (s.setI w).colorAt k' = s.colorAt k' := rfl
@[simp] theorem State.setI_key (w : IWord) (k' : Key) : (s.setI w).key k' = s.key k' := rfl

@[simp] theorem State.setPc_v (w : PcWord) : (s.setPc w).v = s.v := rfl
@[simp] theorem State.setPc_i (w : PcWord) : (s.setPc w).i = s.i := rfl
@[simp] theorem State.setPc_pc (w : PcWord) : (s.setPc w).pc = w := rfl
@[simp] theorem State.setPc_stack (w : PcWord) : (s.setPc w).stack = s.stack := rfl
@[simp] theorem State.setPc_dt (w : PcWord) : (s.setPc w).dt = s.dt := rfl
@[simp] theorem State.setPc_st (w : PcWord) : (s.setPc w).st = s.st := rfl
@[simp] theorem State.setPc_keys (w : PcWord) : (s.setPc w).keys = s.keys := rfl
@[simp] theorem State.setPc_engine (w : PcWord) : (s.setPc w).engine = s.engine := rfl
@[simp] theorem State.setPc_plane (w : PcWord) : (s.setPc w).plane = s.plane := rfl
@[simp] theorem State.setPc_color (w : PcWord) : (s.setPc w).color = s.color := rfl
@[simp] theorem State.setPc_curWord (w : PcWord) : (s.setPc w).curWord = s.curWord := rfl
@[simp] theorem State.setPc_mem (w : PcWord) : (s.setPc w).mem = s.mem := rfl
@[simp] theorem State.setPc_cfg (w : PcWord) : (s.setPc w).cfg = s.cfg := rfl
@[simp] theorem State.setPc_draws (w : PcWord) : (s.setPc w).draws = s.draws := rfl
@[simp] theorem State.setPc_getV (w : PcWord) (r' : Reg) : (s.setPc w).getV r' = s.getV r' := rfl
@[simp] theorem State.setPc_pixel (w : PcWord) (k' : Pixel) : (s.setPc w).pixel k' = s.pixel k' := rfl
@[simp] theorem State.setPc_colorAt (w : PcWord) (k' : Pixel) : (s.setPc w).colorAt k' = s.colorAt k' := rfl
@[simp] theorem State.setPc_key (w : PcWord) (k' : Key) : (s.setPc w).key k' = s.key k' := rfl
@[simp] theorem State.setPc_base (w : PcWord) : (s.setPc w).base = s.base := rfl

@[simp] theorem State.advance_v (n : Nat) : (s.advance n).v = s.v := rfl
@[simp] theorem State.advance_i (n : Nat) : (s.advance n).i = s.i := rfl
@[simp] theorem State.advance_pc (n : Nat) : (s.advance n).pc = s.pc + BitVec.ofNat 16 n := rfl
@[simp] theorem State.advance_stack (n : Nat) : (s.advance n).stack = s.stack := rfl
@[simp] theorem State.advance_dt (n : Nat) : (s.advance n).dt = s.dt := rfl
@[simp] theorem State.advance_st (n : Nat) : (s.advance n).st = s.st := rfl
@[simp] theorem State.advance_keys (n : Nat) : (s.advance n).keys = s.keys := rfl
@[simp] theorem State.advance_engine (n : Nat) : (s.advance n).engine = s.engine := rfl
@[simp] theorem State.advance_plane (n : Nat) : (s.advance n).plane = s.plane := rfl
@[simp] theorem State.advance_color (n : Nat) : (s.advance n).color = s.color := rfl
@[simp] theorem State.advance_curWord (n : Nat) : (s.advance n).curWord = s.curWord := rfl
@[simp] theorem State.advance_mem (n : Nat) : (s.advance n).mem = s.mem := rfl
@[simp] theorem State.advance_cfg (n : Nat) : (s.advance n).cfg = s.cfg := rfl
@[simp] theorem State.advance_draws (n : Nat) : (s.advance n).draws = s.draws := rfl
@[simp] theorem State.advance_getV (n : Nat) (r' : Reg) : (s.advance n).getV r' = s.getV r' := rfl
@[simp] theorem State.advance_pixel (n : Nat) (k' : Pixel) : (s.advance n).pixel k' = s.pixel k' := rfl
@[simp] theorem State.advance_colorAt (n : Nat) (k' : Pixel) : (s.advance n).colorAt k' = s.colorAt k' := rfl
@[simp] theorem State.advance_key (n : Nat) (k' : Key) : (s.advance n).key k' = s.key k' := rfl
@[simp] theorem State.advance_base (n : Nat) : (s.advance n).base = s.base := rfl

@[simp] theorem State.setStack_v (l : List StackEntry) : (s.setStack l).v = s.v := rfl
@[simp] theorem State.setStack_i (l : List StackEntry) : (s.setStack l).i = s.i := rfl
@[simp] theorem State.setStack_pc (l : List StackEntry) : (s.setStack l).pc = s.pc := rfl
@[simp] theorem State.setStack_stack (l : List StackEntry) : (s.setStack l).stack = l := rfl
@[simp] theorem State.setStack_dt (l : List StackEntry) : (s.setStack l).dt = s.dt := rfl
@[simp] theorem State.setStack_st (l : List StackEntry) : (s.setStack l).st = s.st := rfl
@[simp] theorem State.setStack_keys (l : List StackEntry) : (s.setStack l).keys = s.keys := rfl
@[simp] theorem State.setStack_engine (l : List StackEntry) : (s.setStack l).engine = s.engine := rfl
@[simp] theorem State.setStack_plane (l : List StackEntry) : (s.setStack l).plane = s.plane := rfl
@[simp] theorem State.setStack_color (l : List StackEntry) : (s.setStack l).color = s.color := rfl
@[simp] theorem State.setStack_curWord (l : List StackEntry) : (s.setStack l).curWord = s.curWord := rfl
@[simp] theorem State.setStack_mem (l : List StackEntry) : (s.setStack l).mem = s.mem := rfl
@[simp] theorem State.setStack_cfg (l : List StackEntry) : (s.setStack l).cfg = s.cfg := rfl
@[simp] theorem State.setStack_draws (l : List StackEntry) : (s.setStack l).draws = s.draws := rfl
@[simp] theorem State.setStack_getV (l : List StackEntry) (r' : Reg) : (s.setStack l).getV r' = s.getV r' := rfl
@[simp] theorem State.setStack_pixel (l : List StackEntry) (k' : Pixel) : (s.setStack l).pixel k' = s.pixel k' := rfl
@[simp] theorem State.setStack_colorAt (l : List StackEntry) (k' : Pixel) : (s.setStack l).colorAt k' = s.colorAt k' := rfl
@[simp] theorem State.setStack_key (l : List StackEntry) (k' : Key) : (s.setStack l).key k' = s.key k' := rfl
@[simp] theorem State.setStack_base (l : List StackEntry) : (s.setStack l).base = s.base := rfl

@[simp] theorem State.setEngine_v (e : Engine) : (s.setEngine e).v = s.v := rfl
@[simp] theorem State.setEngine_i (e : Engine) : (s.setEngine e).i = s.i := rfl
@[simp] theorem State.setEngine_pc (e : Engine) : (s.setEngine e).pc = s.pc := rfl
@[simp] theorem State.setEngine_stack (e : Engine) : (s.setEngine e).stack = s.stack := rfl
@[simp] theorem State.setEngine_dt (e : Engine) : (s.setEngine e).dt = s.dt := rfl
@[simp] theorem State.setEngine_st (e : Engine) : (s.setEngine e).st = s.st := rfl
@[simp] theorem State.setEngine_keys (e : Engine) : (s.setEngine e).keys = s.keys := rfl
@[simp] theorem State.setEngine_engine (e : Engine) : (s.setEngine e).engine = e := rfl
@[simp] theorem State.setEngine_plane (e : Engine) : (s.setEngine e).plane = s.plane := rfl
@[simp] theorem State.setEngine_color (e : Engine) : (s.setEngine e).color = s.color := rfl
@[simp] theorem State.setEngine_curWord (e : Engine) : (s.setEngine e).curWord = s.curWord := rfl
@[simp] theorem State.setEngine_mem (e : Engine) : (s.setEngine e).mem = s.mem := rfl
@[simp] theorem State.setEngine_cfg (e : Engine) : (s.setEngine e).cfg = s.cfg := rfl
@[simp] theorem State.setEngine_draws (e : Engine) : (s.setEngine e).draws = s.draws := rfl
@[simp] theorem State.setEngine_getV (e : Engine) (r' : Reg) : (s.setEngine e).getV r' = s.getV r' := rfl
@[simp] theorem State.setEngine_pixel (e : Engine) (k' : Pixel) : (s.setEngine e).pixel k' = s.pixel k' := rfl
@[simp] theorem State.setEngine_colorAt (e : Engine) (k' : Pixel) : (s.setEngine e).colorAt k' = s.colorAt k' := rfl
@[simp] theorem State.setEngine_key (e : Engine) (k' : Key) : (s.setEngine e).key k' = s.key k' := rfl
@[simp] theorem State.setEngine_base (e : Engine) : (s.setEngine e).base = s.base := rfl

@[simp] theorem State.setDt_v (b : Timer) : (s.setDt b).v = s.v := rfl
@[simp] theorem State.setDt_i (b : Timer) : (s.setDt b).i = s.i := rfl
@[simp] theorem State.setDt_pc (b : Timer) : (s.setDt b).pc = s.pc := rfl
@[simp] theorem State.setDt_stack (b : Timer) : (s.setDt b).stack = s.stack := rfl
@[simp] theorem State.setDt_dt (b : Timer) : (s.setDt b).dt = b := rfl
@[simp] theorem State.setDt_st (b : Timer) : (s.setDt b).st = s.st := rfl
@[simp] theorem State.setDt_keys (b : Timer) : (s.setDt b).keys = s.keys := rfl
@[simp] theorem State.setDt_engine (b : Timer) : (s.setDt b).engine = s.engine := rfl
@[simp] theorem State.setDt_plane (b : Timer) : (s.setDt b).plane = s.plane := rfl
@[simp] theorem State.setDt_color (b : Timer) : (s.setDt b).color = s.color := rfl
@[simp] theorem State.setDt_curWord (b : Timer) : (s.setDt b).curWord = s.curWord := rfl
@[simp] theorem State.setDt_mem (b : Timer) : (s.setDt b).mem = s.mem := rfl
@[simp] theorem State.setDt_cfg (b : Timer) : (s.setDt b).cfg = s.cfg := rfl
@[simp] theorem State.setDt_draws (b : Timer) : (s.setDt b).draws = s.draws := rfl
@[simp] theorem State.setDt_getV (b : Timer) (r' : Reg) : (s.setDt b).getV r' = s.getV r' := rfl
@[simp] theorem State.setDt_pixel (b : Timer) (k' : Pixel) : (s.setDt b).pixel k' = s.pixel k' := rfl
@[simp] theorem State.setDt_colorAt (b : Timer) (k' : Pixel) : (s.setDt b).colorAt k' = s.colorAt k' := rfl
@[simp] theorem State.setDt_key (b : Timer) (k' : Key) : (s.setDt b).key k' = s.key k' := rfl
@[simp] theorem State.setDt_base (b : Timer) : (s.setDt b).base = s.base := rfl

@[simp] theorem State.setSt_v (b : Timer) : (s.setSt b).v = s.v := rfl
@[simp] theorem State.setSt_i (b : Timer) : (s.setSt b).i = s.i := rfl
@[simp] theorem State.setSt_pc (b : Timer) : (s.setSt b).pc = s.pc := rfl
@[simp] theorem State.setSt_stack (b : Timer) : (s.setSt b).stack = s.stack := rfl
@[simp] theorem State.setSt_dt (b : Timer) : (s.setSt b).dt = s.dt := rfl
@[simp] theorem State.setSt_st (b : Timer) : (s.setSt b).st = b := rfl
@[simp] theorem State.setSt_keys (b : Timer) : (s.setSt b).keys = s.keys := rfl
@[simp] theorem State.setSt_engine (b : Timer) : (s.setSt b).engine = s.engine := rfl
@[simp] theorem State.setSt_plane (b : Timer) : (s.setSt b).plane = s.plane := rfl
@[simp] theorem State.setSt_color (b : Timer) : (s.setSt b).color = s.color := rfl
@[simp] theorem State.setSt_curWord (b : Timer) : (s.setSt b).curWord = s.curWord := rfl
@[simp] theorem State.setSt_mem (b : Timer) : (s.setSt b).mem = s.mem := rfl
@[simp] theorem State.setSt_cfg (b : Timer) : (s.setSt b).cfg = s.cfg := rfl
@[simp] theorem State.setSt_draws (b : Timer) : (s.setSt b).draws = s.draws := rfl
@[simp] theorem State.setSt_getV (b : Timer) (r' : Reg) : (s.setSt b).getV r' = s.getV r' := rfl
@[simp] theorem State.setSt_pixel (b : Timer) (k' : Pixel) : (s.setSt b).pixel k' = s.pixel k' := rfl
@[simp] theorem State.setSt_colorAt (b : Timer) (k' : Pixel) : (s.setSt b).colorAt k' = s.colorAt k' := rfl
@[simp] theorem State.setSt_key (b : Timer) (k' : Key) : (s.setSt b).key k' = s.key k' := rfl
@[simp] theorem State.setSt_base (b : Timer) : (s.setSt b).base = s.base := rfl

@[simp] theorem State.setPixel_v (k : Pixel) (b : Bool) : (s.setPixel k b).v = s.v := rfl
@[simp] theorem State.setPixel_i (k : Pixel) (b : Bool) : (s.setPixel k b).i = s.i := rfl
@[simp] theorem State.setPixel_pc (k : Pixel) (b : Bool) : (s.setPixel k b).pc = s.pc := rfl
@[simp] theorem State.setPixel_stack (k : Pixel) (b : Bool) : (s.setPixel k b).stack = s.stack := rfl
@[simp] theorem State.setPixel_dt (k : Pixel) (b : Bool) : (s.setPixel k b).dt = s.dt := rfl
@[simp] theorem State.setPixel_st (k : Pixel) (b : Bool) : (s.setPixel k b).st = s.st := rfl
@[simp] theorem State.setPixel_keys (k : Pixel) (b : Bool) : (s.setPixel k b).keys = s.keys := rfl
@[simp] theorem State.setPixel_engine (k : Pixel) (b : Bool) : (s.setPixel k b).engine = s.engine := rfl
@[simp] theorem State.setPixel_curWord (k : Pixel) (b : Bool) : (s.setPixel k b).curWord = s.curWord := rfl
@[simp] theorem State.setPixel_mem (k : Pixel) (b : Bool) : (s.setPixel k b).mem = s.mem := rfl
@[simp] theorem State.setPixel_cfg (k : Pixel) (b : Bool) : (s.setPixel k b).cfg = s.cfg := rfl
@[simp] theorem State.setPixel_draws (k : Pixel) (b : Bool) : (s.setPixel k b).draws = s.draws := rfl
@[simp] theorem State.setPixel_getV (k : Pixel) (b : Bool) (r' : Reg) : (s.setPixel k b).getV r' = s.getV r' := rfl
@[simp] theorem State.setPixel_key (k : Pixel) (b : Bool) (k' : Key) : (s.setPixel k b).key k' = s.key k' := rfl
@[simp] theorem State.setPixel_base (k : Pixel) (b : Bool) : (s.setPixel k b).base = s.base := rfl

@[simp] theorem State.clearDisplay_v : (s.clearDisplay).v = s.v := rfl
@[simp] theorem State.clearDisplay_i : (s.clearDisplay).i = s.i := rfl
@[simp] theorem State.clearDisplay_pc : (s.clearDisplay).pc = s.pc := rfl
@[simp] theorem State.clearDisplay_stack : (s.clearDisplay).stack = s.stack := rfl
@[simp] theorem State.clearDisplay_dt : (s.clearDisplay).dt = s.dt := rfl
@[simp] theorem State.clearDisplay_st : (s.clearDisplay).st = s.st := rfl
@[simp] theorem State.clearDisplay_keys : (s.clearDisplay).keys = s.keys := rfl
@[simp] theorem State.clearDisplay_engine : (s.clearDisplay).engine = s.engine := rfl
@[simp] theorem State.clearDisplay_curWord : (s.clearDisplay).curWord = s.curWord := rfl
@[simp] theorem State.clearDisplay_mem : (s.clearDisplay).mem = s.mem := rfl
@[simp] theorem State.clearDisplay_cfg : (s.clearDisplay).cfg = s.cfg := rfl
@[simp] theorem State.clearDisplay_draws : (s.clearDisplay).draws = s.draws := rfl
@[simp] theorem State.clearDisplay_getV (r' : Reg) : (s.clearDisplay).getV r' = s.getV r' := rfl
@[simp] theorem State.clearDisplay_key (k' : Key) : (s.clearDisplay).key k' = s.key k' := rfl
@[simp] theorem State.clearDisplay_base : (s.clearDisplay).base = s.base := rfl

@[simp] theorem State.memWriteBytes_v (a : Nat) (bs : List Byte) : (s.memWriteBytes a bs).v = s.v := rfl
@[simp] theorem State.memWriteBytes_i (a : Nat) (bs : List Byte) : (s.memWriteBytes a bs).i = s.i := rfl
@[simp] theorem State.memWriteBytes_pc (a : Nat) (bs : List Byte) : (s.memWriteBytes a bs).pc = s.pc := rfl
@[simp] theorem State.memWriteBytes_stack (a : Nat) (bs : List Byte) : (s.memWriteBytes a bs).stack = s.stack := rfl
@[simp] theorem State.memWriteBytes_dt (a : Nat) (bs : List Byte) : (s.memWriteBytes a bs).dt = s.dt := rfl
@[simp] theorem State.memWriteBytes_st (a : Nat) (bs : List Byte) : (s.memWriteBytes a bs).st = s.st := rfl
@[simp] theorem State.memWriteBytes_keys (a : Nat) (bs : List Byte) : (s.memWriteBytes a bs).keys = s.keys := rfl
@[simp] theorem State.memWriteBytes_engine (a : Nat) (bs : List Byte) : (s.memWriteBytes a bs).engine = s.engine := rfl
@[simp] theorem State.memWriteBytes_plane (a : Nat) (bs : List Byte) : (s.memWriteBytes a bs).plane = s.plane := rfl
@[simp] theorem State.memWriteBytes_color (a : Nat) (bs : List Byte) : (s.memWriteBytes a bs).color = s.color := rfl
@[simp] theorem State.memWriteBytes_curWord (a : Nat) (bs : List Byte) : (s.memWriteBytes a bs).curWord = s.curWord := rfl
@[simp] theorem State.memWriteBytes_mem (a : Nat) (bs : List Byte) : (s.memWriteBytes a bs).mem = s.mem.writeBytes a bs := rfl
@[simp] theorem State.memWriteBytes_cfg (a : Nat) (bs : List Byte) : (s.memWriteBytes a bs).cfg = s.cfg := rfl
@[simp] theorem State.memWriteBytes_draws (a : Nat) (bs : List Byte) : (s.memWriteBytes a bs).draws = s.draws := rfl
@[simp] theorem State.memWriteBytes_getV (a : Nat) (bs : List Byte) (r' : Reg) : (s.memWriteBytes a bs).getV r' = s.getV r' := rfl
@[simp] theorem State.memWriteBytes_pixel (a : Nat) (bs : List Byte) (k' : Pixel) : (s.memWriteBytes a bs).pixel k' = s.pixel k' := rfl
@[simp] theorem State.memWriteBytes_colorAt (a : Nat) (bs : List Byte) (k' : Pixel) : (s.memWriteBytes a bs).colorAt k' = s.colorAt k' := rfl
@[simp] theorem State.memWriteBytes_key (a : Nat) (bs : List Byte) (k' : Key) : (s.memWriteBytes a bs).key k' = s.key k' := rfl
@[simp] theorem State.memWriteBytes_base (a : Nat) (bs : List Byte) : (s.memWriteBytes a bs).base = s.base := rfl

@[simp] theorem State.draw_v : (s.draw).v = s.v := rfl
@[simp] theorem State.draw_i : (s.draw).i = s.i := rfl
@[simp] theorem State.draw_pc : (s.draw).pc = s.pc := rfl
@[simp] theorem State.draw_stack : (s.draw).stack = s.stack := rfl
@[simp] theorem State.draw_dt : (s.draw).dt = s.dt := rfl
@[simp] theorem State.draw_st : (s.draw).st = s.st := rfl
@[simp] theorem State.draw_keys : (s.draw).keys = s.keys := rfl
@[simp] theorem State.draw_engine : (s.draw).engine = s.engine := rfl
@[simp] theorem State.draw_plane : (s.draw).plane = s.plane := rfl
@[simp] theorem State.draw_color : (s.draw).color = s.color := rfl
@[simp] theorem State.draw_curWord : (s.draw).curWord = s.curWord := rfl
@[simp] theorem State.draw_mem : (s.draw).mem = s.mem := rfl
@[simp] theorem State.draw_cfg : (s.draw).cfg = s.cfg := rfl
@[simp] theorem State.draw_draws : (s.draw).draws = s.draws + 1 := rfl
@[simp] theorem State.draw_getV (r' : Reg) : (s.draw).getV r' = s.getV r' := rfl
@[simp] theorem State.draw_pixel (k' : Pixel) : (s.draw).pixel k' = s.pixel k' := rfl
@[simp] theorem State.draw_colorAt (k' : Pixel) : (s.draw).colorAt k' = s.colorAt k' := rfl
@[simp] theorem State.draw_key (k' : Key) : (s.draw).key k' = s.key k' := rfl
@[simp] theorem State.draw_base : (s.draw).base = s.base := rfl

@[simp] theorem State.raise_v (f : Fault) (w : Option Word) (a : Option Nat) : (s.raise f w a).v = s.v := rfl
@[simp] theorem State.raise_i (f : Fault) (w : Option Word) (a : Option Nat) : (s.raise f w a).i = s.i := rfl
@[simp] theorem State.raise_pc (f : Fault) (w : Option Word) (a : Option Nat) : (s.raise f w a).pc = s.pc := rfl
@[simp] theorem State.raise_stack (f : Fault) (w : Option Word) (a : Option Nat) : (s.raise f w a).stack = s.stack := rfl
@[simp] theorem State.raise_dt (f : Fault) (w : Option Word) (a : Option Nat) : (s.raise f w a).dt = s.dt := rfl
@[simp] theorem State.raise_st (f : Fault) (w : Option Word) (a : Option Nat) : (s.raise f w a).st = s.st := rfl
@[simp] theorem State.raise_keys (f : Fault) (w : Option Word) (a : Option Nat) : (s.raise f w a).keys = s.keys := rfl
@[simp] theorem State.raise_engine (f : Fault) (w : Option Word) (a : Option Nat) : (s.raise f w a).engine = .faulted { kind := f, pc := s.pc, word := w, addr := a } := rfl
@[simp] theorem State.raise_plane (f : Fault) (w : Option Word) (a : Option Nat) : (s.raise f w a).plane = s.plane := rfl
@[simp] theorem State.raise_color (f : Fault) (w : Option Word) (a : Option Nat) : (s.raise f w a).color = s.color := rfl
@[simp] theorem State.raise_curWord (f : Fault) (w : Option Word) (a : Option Nat) : (s.raise f w a).curWord = s.curWord := rfl
@[simp] theorem State.raise_mem (f : Fault) (w : Option Word) (a : Option Nat) : (s.raise f w a).mem = s.mem := rfl
@[simp] theorem State.raise_cfg (f : Fault) (w : Option Word) (a : Option Nat) : (s.raise f w a).cfg = s.cfg := rfl
@[simp] theorem State.raise_draws (f : Fault) (w : Option Word) (a : Option Nat) : (s.raise f w a).draws = s.draws := rfl
@[simp] theorem State.raise_getV (f : Fault) (w : Option Word) (a : Option Nat) (r' : Reg) : (s.raise f w a).getV r' = s.getV r' := rfl
@[simp] theorem State.raise_pixel (f : Fault) (w : Option Word) (a : Option Nat) (k' : Pixel) : (s.raise f w a).pixel k' = s.pixel k' := rfl
@[simp] theorem State.raise_colorAt (f : Fault) (w : Option Word) (a : Option Nat) (k' : Pixel) : (s.raise f w a).colorAt k' = s.colorAt k' := rfl
@[simp] theorem State.raise_key (f : Fault) (w : Option Word) (a : Option Nat) (k' : Key) : (s.raise f w a).key k' = s.key k' := rfl
@[simp] theorem State.raise_base (f : Fault) (w : Option Word) (a : Option Nat) : (s.raise f w a).base = s.base := rfl

@[simp] theorem State.tickTimers_v : (s.tickTimers).v = s.v := rfl
@[simp] theorem State.tickTimers_i : (s.tickTimers).i = s.i := rfl
@[simp] theorem State.tickTimers_pc : (s.tickTimers).pc = s.pc := rfl
@[simp] theorem State.tickTimers_stack : (s.tickTimers).stack = s.stack := rfl
@[simp] theorem State.tickTimers_dt : (s.tickTimers).dt = timerTick s.dt := rfl
@[simp] theorem State.tickTimers_st : (s.tickTimers).st = timerTick s.st := rfl
@[simp] theorem State.tickTimers_keys : (s.tickTimers).keys = s.keys := rfl
@[simp] theorem State.tickTimers_engine : (s.tickTimers).engine = s.engine := rfl
@[simp] theorem State.tickTimers_plane : (s.tickTimers).plane = s.plane := rfl
@[simp] theorem State.tickTimers_color : (s.tickTimers).color = s.color := rfl
@[simp] theorem State.tickTimers_curWord : (s.tickTimers).curWord = s.curWord := rfl
@[simp] theorem State.tickTimers_mem : (s.tickTimers).mem = s.mem := rfl
@[simp] theorem State.tickTimers_cfg : (s.tickTimers).cfg = s.cfg := rfl
@[simp] theorem State.tickTimers_draws : (s.tickTimers).draws = s.draws := rfl
@[simp] theorem State.tickTimers_getV (r' : Reg) : (s.tickTimers).getV r' = s.getV r' := rfl
@[simp] theorem State.tickTimers_pixel (k' : Pixel) : (s.tickTimers).pixel k' = s.pixel k' := rfl
@[simp] theorem State.tickTimers_colorAt (k' : Pixel) : (s.tickTimers).colorAt k' = s.colorAt k' := rfl
@[simp] theorem State.tickTimers_key (k' : Key) : (s.tickTimers).key k' = s.key k' := rfl
@[simp] theorem State.tickTimers_base : (s.tickTimers).base = s.base := rfl

@[simp] theorem State.latch_v (w : Word) : (s.latch w).v = s.v := rfl
@[simp] theorem State.latch_i (w : Word) : (s.latch w).i = s.i := rfl
@[simp] theorem State.latch_pc (w : Word) : (s.latch w).pc = s.pc := rfl
@[simp] theorem State.latch_stack (w : Word) : (s.latch w).stack = s.stack := rfl
@[simp] theorem State.latch_dt (w : Word) : (s.latch w).dt = s.dt := rfl
@[simp] theorem State.latch_st (w : Word) : (s.latch w).st = s.st := rfl
@[simp] theorem State.latch_keys (w : Word) : (s.latch w).keys = s.keys := rfl
@[simp] theorem State.latch_engine (w : Word) : (s.latch w).engine = s.engine := rfl
@[simp] theorem State.latch_plane (w : Word) : (s.latch w).plane = s.plane := rfl
@[simp] theorem State.latch_color (w : Word) : (s.latch w).color = s.color := rfl
@[simp] theorem State.latch_curWord (w : Word) : (s.latch w).curWord = w := rfl
@[simp] theorem State.latch_mem (w : Word) : (s.latch w).mem = s.mem := rfl
@[simp] theorem State.latch_cfg (w : Word) : (s.latch w).cfg = s.cfg := rfl
@[simp] theorem State.latch_draws (w : Word) : (s.latch w).draws = s.draws := rfl
@[simp] theorem State.latch_getV (w : Word) (r' : Reg) : (s.latch w).getV r' = s.getV r' := rfl
@[simp] theorem State.latch_pixel (w : Word) (k' : Pixel) : (s.latch w).pixel k' = s.pixel k' := rfl
@[simp] theorem State.latch_colorAt (w : Word) (k' : Pixel) : (s.latch w).colorAt k' = s.colorAt k' := rfl
@[simp] theorem State.latch_key (w : Word) (k' : Key) : (s.latch w).key k' = s.key k' := rfl
@[simp] theorem State.latch_base (w : Word) : (s.latch w).base = s.base := rfl

@[simp] theorem State.setKey_v (k : Key) (held : Bool) : (s.setKey k held).v = s.v := rfl
@[simp] theorem State.setKey_i (k : Key) (held : Bool) : (s.setKey k held).i = s.i := rfl
@[simp] theorem State.setKey_pc (k : Key) (held : Bool) : (s.setKey k held).pc = s.pc := rfl
@[simp] theorem State.setKey_stack (k : Key) (held : Bool) : (s.setKey k held).stack = s.stack := rfl
@[simp] theorem State.setKey_dt (k : Key) (held : Bool) : (s.setKey k held).dt = s.dt := rfl
@[simp] theorem State.setKey_st (k : Key) (held : Bool) : (s.setKey k held).st = s.st := rfl
@[simp] theorem State.setKey_engine (k : Key) (held : Bool) : (s.setKey k held).engine = s.engine := rfl
@[simp] theorem State.setKey_plane (k : Key) (held : Bool) : (s.setKey k held).plane = s.plane := rfl
@[simp] theorem State.setKey_color (k : Key) (held : Bool) : (s.setKey k held).color = s.color := rfl
@[simp] theorem State.setKey_curWord (k : Key) (held : Bool) : (s.setKey k held).curWord = s.curWord := rfl
@[simp] theorem State.setKey_mem (k : Key) (held : Bool) : (s.setKey k held).mem = s.mem := rfl
@[simp] theorem State.setKey_cfg (k : Key) (held : Bool) : (s.setKey k held).cfg = s.cfg := rfl
@[simp] theorem State.setKey_draws (k : Key) (held : Bool) : (s.setKey k held).draws = s.draws := rfl
@[simp] theorem State.setKey_getV (k : Key) (held : Bool) (r' : Reg) : (s.setKey k held).getV r' = s.getV r' := rfl
@[simp] theorem State.setKey_pixel (k : Key) (held : Bool) (k' : Pixel) : (s.setKey k held).pixel k' = s.pixel k' := rfl
@[simp] theorem State.setKey_colorAt (k : Key) (held : Bool) (k' : Pixel) : (s.setKey k held).colorAt k' = s.colorAt k' := rfl
@[simp] theorem State.setKey_base (k : Key) (held : Bool) : (s.setKey k held).base = s.base := rfl

@[simp] theorem State.disasmResetPc_v : (s.disasmResetPc).v = s.v := rfl
@[simp] theorem State.disasmResetPc_i : (s.disasmResetPc).i = s.i := rfl
@[simp] theorem State.disasmResetPc_pc : (s.disasmResetPc).pc = BitVec.ofNat _ params.progBase := rfl
@[simp] theorem State.disasmResetPc_stack : (s.disasmResetPc).stack = s.stack := rfl
@[simp] theorem State.disasmResetPc_dt : (s.disasmResetPc).dt = s.dt := rfl
@[simp] theorem State.disasmResetPc_st : (s.disasmResetPc).st = s.st := rfl
@[simp] theorem State.disasmResetPc_keys : (s.disasmResetPc).keys = s.keys := rfl
@[simp] theorem State.disasmResetPc_engine : (s.disasmResetPc).engine = s.engine := rfl
@[simp] theorem State.disasmResetPc_plane : (s.disasmResetPc).plane = s.plane := rfl
@[simp] theorem State.disasmResetPc_color : (s.disasmResetPc).color = s.color := rfl
@[simp] theorem State.disasmResetPc_curWord : (s.disasmResetPc).curWord = s.curWord := rfl
@[simp] theorem State.disasmResetPc_mem : (s.disasmResetPc).mem = s.mem := rfl
@[simp] theorem State.disasmResetPc_cfg : (s.disasmResetPc).cfg = s.cfg := rfl
@[simp] theorem State.disasmResetPc_draws : (s.disasmResetPc).draws = s.draws := rfl
@[simp] theorem State.disasmResetPc_getV (r' : Reg) : (s.disasmResetPc).getV r' = s.getV r' := rfl
@[simp] theorem State.disasmResetPc_pixel (k' : Pixel) : (s.disasmResetPc).pixel k' = s.pixel k' := rfl
@[simp] theorem State.disasmResetPc_colorAt (k' : Pixel) : (s.disasmResetPc).colorAt k' = s.colorAt k' := rfl
@[simp] theorem State.disasmResetPc_key (k' : Key) : (s.disasmResetPc).key k' = s.key k' := rfl
@[simp] theorem State.disasmResetPc_base : (s.disasmResetPc).base = s.base := rfl

/-- A register write is read back. -/
@[simp] theorem State.getV_setV_same (r : Reg) (b : Byte) : (s.setV r b).getV r = b := by
  simp [State.getV, State.setV, Vector.get_eq_getElem]

/-- A register write leaves the other registers. -/
theorem State.getV_setV_ne {r r' : Reg} (b : Byte) (h : r' ≠ r) :
    (s.setV r b).getV r' = s.getV r' := by
  have h' : r.val ≠ r'.val := fun e => h (Fin.ext e.symm)
  simp [State.getV, State.setV, Vector.get_eq_getElem, Vector.getElem_set_ne _ _ h']

/-- A register after a register write. -/
theorem State.getV_setV (r r' : Reg) (b : Byte) :
    (s.setV r b).getV r' = if r' = r then b else s.getV r' := by
  by_cases h : r' = r
  · subst h; simp
  · simp [h, State.getV_setV_ne s b h]

/-- A key of the latch after `set_key`. -/
theorem State.key_setKey (k k' : Key) (held : Bool) :
    (s.setKey k held).key k' = if k' = k then held else s.key k' := by
  by_cases h : k' = k
  · subst h; simp [State.key, State.setKey, Vector.get_eq_getElem]
  · have h' : k.val ≠ k'.val := fun e => h (Fin.ext e.symm)
    simp [State.key, State.setKey, Vector.get_eq_getElem, Vector.getElem_set_ne _ _ h', h]

/-- A pixel after `SetPixel`. -/
theorem State.pixel_setPixel (k k' : Pixel) (b : Bool) :
    (s.setPixel k b).pixel k' = if k' = k then b else s.pixel k' := by
  by_cases h : k' = k
  · subst h; simp [State.pixel, State.setPixel, Vector.get_eq_getElem]
  · have h' : k.val ≠ k'.val := fun e => h (Fin.ext e.symm)
    simp [State.pixel, State.setPixel, Vector.get_eq_getElem, Vector.getElem_set_ne _ _ h', h]

/-- A colour word after `SetPixel`. -/
theorem State.colorAt_setPixel (k k' : Pixel) (b : Bool) :
    (s.setPixel k b).colorAt k' = if k' = k then colorOf s.cfg b else s.colorAt k' := by
  by_cases h : k' = k
  · subst h; simp [State.colorAt, State.setPixel, Vector.get_eq_getElem]
  · have h' : k.val ≠ k'.val := fun e => h (Fin.ext e.symm)
    simp [State.colorAt, State.setPixel, Vector.get_eq_getElem, Vector.getElem_set_ne _ _ h', h]

@[simp] theorem State.pixel_clearDisplay (k : Pixel) : s.clearDisplay.pixel k = false := by
  simp [State.pixel, State.clearDisplay, Vector.get_eq_getElem]

@[simp] theorem State.colorAt_clearDisplay (k : Pixel) :
    s.clearDisplay.colorAt k = colorOf s.cfg false := by
  simp [State.colorAt, State.clearDisplay, Vector.get_eq_getElem]

end Sys2Proof.Machine
end

