-- ==== Sys2Proof/Laws/Ops.lean ====
section
/-! SUPPORT. What each shared operation can do, said once. -/

namespace Sys2Proof.Machine

/-- Where a run of accesses faults (60_exceptions.md R257): nowhere if none is made or all addresses exist,
else at the first address past memory. -/
theorem firstMissing_eq (a count : Nat) :
    firstMissing a count = if count = 0 ∨ a + count ≤ 4095 then none else some (4095 - a) := by
  induction count with
  | zero => simp [firstMissing]
  | succ n ih =>
    rw [firstMissing, ih]
    by_cases h0 : n = 0 ∨ a + n ≤ 4095
    · rw [if_pos h0]
      by_cases h1 : a + n < 4095
      · have h2 : n + 1 = 0 ∨ a + (n + 1) ≤ 4095 := by omega
        simp only [(addrExists_iff (a + n)).mpr h1, if_true, if_pos h2]
      · have h2 : ¬ (n + 1 = 0 ∨ a + (n + 1) ≤ 4095) := by omega
        have h3 : ¬ addrExists (a + n) = true := fun h => h1 ((addrExists_iff _).mp h)
        simp only [if_neg h3, if_neg h2]
        congr 1; omega
    · have h2 : ¬ (n + 1 = 0 ∨ a + (n + 1) ≤ 4095) := by omega
      rw [if_neg h0, if_neg h2]

/-- A store at `I` with every address existing. -/
theorem storeAtI_fits {bs : List Byte} {s : State} (h : bs.length = 0 ∨ s.base + bs.length ≤ 4095) :
    storeAtI bs s = .next ((s.memWriteBytes s.base bs).advance 2) := by
  simp only [storeAtI, firstMissing_eq, if_pos h]

/-- A store at `I` past memory. -/
theorem storeAtI_past {bs : List Byte} {s : State} (h : ¬ (bs.length = 0 ∨ s.base + bs.length ≤ 4095)) :
    storeAtI bs s = raiseMemory (s.base + (4095 - s.base)) (4095 - s.base)
      (fun k => s.memWriteBytes s.base (bs.take k)) s := by
  simp only [storeAtI, firstMissing_eq, if_neg h]

/-- A load from `I` changes registers only. -/
theorem State.loadRegs_only (s : State) : ∀ n, ∃ v, s.loadRegs n = { s with v := v }
  | 0 => ⟨s.v, rfl⟩
  | n + 1 => by
    obtain ⟨v, hv⟩ := State.loadRegs_only s n
    exact ⟨_, by rw [State.loadRegs, hv]; rfl⟩

/-- The registers after a load from `I`. -/
theorem State.getV_loadRegs (s : State) (r : Reg) :
    ∀ n, n ≤ 16 → (s.loadRegs n).getV r =
      if r.val < n then s.mem.read (s.base + r.val) else s.getV r
  | 0, _ => by simp [State.loadRegs]
  | n + 1, h => by
    have ih := State.getV_loadRegs s r n (by omega)
    have hn : (Fin.ofNat 16 n).val = n := Nat.mod_eq_of_lt (by omega)
    rw [State.loadRegs, State.getV_setV, ih]
    by_cases hr : r = Fin.ofNat 16 n
    · have : r.val = n := by rw [hr, hn]
      rw [if_pos hr, if_pos (by omega), this]
    · have : r.val ≠ n := fun e => hr (Fin.ext (by rw [hn]; exact e))
      by_cases hlt : r.val < n
      · rw [if_neg hr, if_pos hlt, if_pos (by omega)]
      · rw [if_neg hr, if_neg hlt, if_neg (by omega)]

/-- The `j`-th stored register (43_index_memory.md R195). -/
theorem State.regsUpTo_getElem (s : State) (x : Reg) (j : Nat) (h : j < (s.regsUpTo x).length) :
    (s.regsUpTo x)[j] = s.getV ⟨j, by
      rw [State.regsUpTo, List.length_take, Vector.length_toList] at h; exact (lt_min_iff.mp h).2⟩ := by
  simp [State.regsUpTo, State.getV, Vector.get_eq_getElem]

@[simp] theorem State.regsUpTo_length (s : State) (x : Reg) : (s.regsUpTo x).length = x.val + 1 := by
  rw [State.regsUpTo, List.length_take, Vector.length_toList]
  exact Nat.min_eq_left (reg_lt x)

@[simp] theorem decimalDigits_length (b : Byte) : (decimalDigits b).length = 3 := rfl

/-- Zero extension keeps the number (30_encoding.md R91), for `pc` and for `I` alike. -/
theorem zextAddr_toNat {width : Nat} (nnn : Addr) (h : 12 ≤ width) :
    (zextAddr nnn : BitVec width).toNat = nnn.toNat := by
  rw [zextAddr, BitVec.toNat_setWidth]
  exact Nat.mod_eq_of_lt (lt_of_lt_of_le nnn.isLt (Nat.pow_le_pow_right (by decide) h))

theorem zextByte_toNat {width : Nat} (b : Byte) (h : 8 ≤ width) :
    (zextByte b : BitVec width).toNat = b.toNat := by
  rw [zextByte, BitVec.toNat_setWidth]
  exact Nat.mod_eq_of_lt (lt_of_lt_of_le b.isLt (Nat.pow_le_pow_right (by decide) h))

/-- `pc` after an advance that does not wrap. -/
theorem State.advance_pc_toNat (s : State) (n : Nat) (h : s.pc.toNat + n < 65536) :
    (s.advance n).pc.toNat = s.pc.toNat + n := by
  rw [State.advance_pc, BitVec.toNat_add, BitVec.toNat_ofNat, Nat.add_mod_mod]
  exact Nat.mod_eq_of_lt h

/-! The result-then-flag write of 8xy4 to 8xyE (42_alu.md R163): one lemma per part. -/

@[simp] theorem State.writeResultFlag_i (s : State) (x : Reg) (b : Byte) (f : Bool) :
    (s.writeResultFlag x b f).i = s.i := rfl
@[simp] theorem State.writeResultFlag_stack (s : State) (x : Reg) (b : Byte) (f : Bool) :
    (s.writeResultFlag x b f).stack = s.stack := rfl
@[simp] theorem State.writeResultFlag_dt (s : State) (x : Reg) (b : Byte) (f : Bool) :
    (s.writeResultFlag x b f).dt = s.dt := rfl
@[simp] theorem State.writeResultFlag_st (s : State) (x : Reg) (b : Byte) (f : Bool) :
    (s.writeResultFlag x b f).st = s.st := rfl
@[simp] theorem State.writeResultFlag_keys (s : State) (x : Reg) (b : Byte) (f : Bool) :
    (s.writeResultFlag x b f).keys = s.keys := rfl
@[simp] theorem State.writeResultFlag_engine (s : State) (x : Reg) (b : Byte) (f : Bool) :
    (s.writeResultFlag x b f).engine = s.engine := rfl
@[simp] theorem State.writeResultFlag_plane (s : State) (x : Reg) (b : Byte) (f : Bool) :
    (s.writeResultFlag x b f).plane = s.plane := rfl
@[simp] theorem State.writeResultFlag_color (s : State) (x : Reg) (b : Byte) (f : Bool) :
    (s.writeResultFlag x b f).color = s.color := rfl
@[simp] theorem State.writeResultFlag_curWord (s : State) (x : Reg) (b : Byte) (f : Bool) :
    (s.writeResultFlag x b f).curWord = s.curWord := rfl
@[simp] theorem State.writeResultFlag_mem (s : State) (x : Reg) (b : Byte) (f : Bool) :
    (s.writeResultFlag x b f).mem = s.mem := rfl
@[simp] theorem State.writeResultFlag_cfg (s : State) (x : Reg) (b : Byte) (f : Bool) :
    (s.writeResultFlag x b f).cfg = s.cfg := rfl
@[simp] theorem State.writeResultFlag_draws (s : State) (x : Reg) (b : Byte) (f : Bool) :
    (s.writeResultFlag x b f).draws = s.draws := rfl
@[simp] theorem State.writeResultFlag_base (s : State) (x : Reg) (b : Byte) (f : Bool) :
    (s.writeResultFlag x b f).base = s.base := rfl
@[simp] theorem State.writeResultFlag_pc (s : State) (x : Reg) (b : Byte) (f : Bool) :
    (s.writeResultFlag x b f).pc = s.pc + 2#16 := rfl
@[simp] theorem State.writeResultFlag_pixel (s : State) (x : Reg) (b : Byte) (f : Bool) (k : Pixel) :
    (s.writeResultFlag x b f).pixel k = s.pixel k := rfl
@[simp] theorem State.writeResultFlag_colorAt (s : State) (x : Reg) (b : Byte) (f : Bool) (k : Pixel) :
    (s.writeResultFlag x b f).colorAt k = s.colorAt k := rfl
@[simp] theorem State.writeResultFlag_key (s : State) (x : Reg) (b : Byte) (f : Bool) (k : Key) :
    (s.writeResultFlag x b f).key k = s.key k := rfl

/-- A register after the result-then-flag write: the flag wins where the destination is VF. -/
theorem State.getV_writeResultFlag (s : State) (x r : Reg) (b : Byte) (f : Bool) :
    (s.writeResultFlag x b f).getV r = if r = 15 then flagByte f else if r = x then b else s.getV r := by
  rw [State.writeResultFlag, State.advance_getV, State.getV_setV, State.getV_setV, flagReg_eq]

/-- A timer tick is a truncated decrement (10_state.md R34). -/
theorem timerTick_toNat (t : Byte) : (timerTick t).toNat = t.toNat - 1 := by
  unfold timerTick
  split
  · rename_i h; subst h; rfl
  · rename_i h
    have h0 : t.toNat ≠ 0 := fun e => h (BitVec.eq_of_toNat_eq (by simpa using e))
    have := timer_lt t
    rw [BitVec.toNat_sub]
    simp
    omega

/-- A sprite bit changes the display only. -/
theorem drawBit_only (index : Nat) (bit : Bool) (d : Drawing) :
    ∃ p c, (drawBit index bit d).1 = { d.1 with plane := p, color := c } := by
  unfold drawBit
  split
  · exact ⟨_, _, rfl⟩
  · exact ⟨d.1.plane, d.1.color, rfl⟩

/-- A sprite row changes the display only. -/
theorem drawCols_only (px py row : Nat) (b : Byte) (d : Drawing) :
    ∀ n, ∃ p c, (drawCols px py row b n d).1 = { d.1 with plane := p, color := c }
  | 0 => ⟨d.1.plane, d.1.color, rfl⟩
  | n + 1 => by
    obtain ⟨p, c, h⟩ := drawCols_only px py row b d n
    obtain ⟨p', c', h'⟩ := drawBit_only (pixelIndex px py n row) (spriteBit b n) (drawCols px py row b n d)
    exact ⟨p', c', by rw [drawCols, h', h]⟩

/-- A sprite changes the display only. -/
theorem drawRows_only (px py : Nat) (s : State) :
    ∀ n, ∃ p c, (drawRows px py s n).1 = { s with plane := p, color := c }
  | 0 => ⟨s.plane, s.color, rfl⟩
  | n + 1 => by
    obtain ⟨p, c, h⟩ := drawRows_only px py s n
    obtain ⟨p', c', h'⟩ := drawCols_only px py n (s.mem.read (s.base + n)) (drawRows px py s n) 8
    exact ⟨p', c', by rw [drawRows, h', h]⟩

/-- One sprite bit at one pixel (44_display.md R213, R214). -/
theorem drawBit_pixel (index : Nat) (bit : Bool) (d : Drawing) (k : Pixel) :
    (drawBit index bit d).1.pixel k =
      if index = k.val then d.1.pixel k ^^ bit else d.1.pixel k := by
  unfold drawBit
  by_cases h : index < params.dispW * params.dispH
  · rw [dif_pos h, State.pixel_setPixel]
    by_cases hk : index = k.val
    · have : k = ⟨index, h⟩ := Fin.ext hk.symm
      rw [if_pos this, if_pos hk, this]
    · have : ¬ k = ⟨index, h⟩ := fun e => hk (by rw [e])
      rw [if_neg this, if_neg hk]
  · have : ¬ index = k.val := fun e => h (e ▸ k.isLt)
    rw [dif_neg h, if_neg this]

/-- One sprite bit and the collision (44_display.md R215). -/
theorem drawBit_hit (index : Nat) (bit : Bool) (d : Drawing) :
    (drawBit index bit d).2 = true ↔
      d.2 = true ∨ ∃ k : Pixel, index = k.val ∧ bit = true ∧ d.1.pixel k = true := by
  unfold drawBit
  by_cases h : index < params.dispW * params.dispH
  · rw [dif_pos h]
    constructor
    · intro hh
      rcases Bool.or_eq_true_iff.mp hh with hh | hh
      · exact .inl hh
      · have := Bool.and_eq_true_iff.mp hh
        exact .inr ⟨⟨index, h⟩, rfl, this.1, this.2⟩
    · rintro (hh | ⟨k, hk, hb, hp⟩)
      · simp [hh]
      · have : k = ⟨index, h⟩ := Fin.ext hk.symm
        subst this
        simp [hb, hp]
  · rw [dif_neg h]
    constructor
    · exact .inl
    · rintro (hh | ⟨k, hk, -⟩)
      · exact hh
      · exact absurd (hk ▸ k.isLt) h

/-- The colour invariant of one state (10_state.md R39). -/
def State.ColourInStep (s : State) : Prop := ∀ k : Pixel, s.colorAt k = colorOf s.cfg (s.pixel k)

/-- `SetPixel` keeps the colour buffer in step (44_display.md R211). -/
theorem State.colourInStep_setPixel {s : State} (h : s.ColourInStep) (k : Pixel) (b : Bool) :
    (s.setPixel k b).ColourInStep := by
  intro k'
  rw [State.colorAt_setPixel, State.pixel_setPixel, State.setPixel_cfg]
  by_cases hk : k' = k
  · simp [hk]
  · simpa [hk] using h k'

theorem colourInStep_drawBit (index : Nat) (bit : Bool) {d : Drawing} (h : d.1.ColourInStep) :
    (drawBit index bit d).1.ColourInStep := by
  unfold drawBit
  split
  · exact State.colourInStep_setPixel h _ _
  · exact h

theorem colourInStep_drawCols (px py row : Nat) (b : Byte) {d : Drawing} (h : d.1.ColourInStep) :
    ∀ n, (drawCols px py row b n d).1.ColourInStep
  | 0 => h
  | n + 1 => colourInStep_drawBit _ _ (colourInStep_drawCols px py row b h n)

/-- A draw keeps the colour buffer in step with the plane. -/
theorem colourInStep_drawRows (px py : Nat) {s : State} (h : s.ColourInStep) :
    ∀ n, (drawRows px py s n).1.ColourInStep
  | 0 => h
  | n + 1 => colourInStep_drawCols _ _ _ _ (colourInStep_drawRows px py h n) 8

end Sys2Proof.Machine
end

