-- ==== Sys2Proof/Laws/Step.lean ====
section
/-! SUPPORT. What a cycle can do, said once, and the fetch of a placed word. -/

namespace Sys2Proof.Machine

theorem State.memRead_of_lt (s : State) {a : Nat} (h : a < 4095) : s.memRead a = some (s.mem.read a) := by
  simp [State.memRead, (addrExists_iff a).mpr h]

theorem State.memRead_of_le (s : State) {a : Nat} (h : 4095 ≤ a) : s.memRead a = none := by
  have : ¬ addrExists a = true := fun e => by have := (addrExists_iff a).mp e; omega
  simp [State.memRead, this]

/-- The three outcomes of a fetch, by where `pc` is (40_cycle.md R113, R114). -/
theorem State.fetch_eq (s : State) : s.fetch =
    if 0xFFF ≤ s.pc.toNat then .raised (s.raise .pcOutOfBounds none none)
    else if s.pc.toNat = 0xFFE then .raised (s.raise .memOutOfBounds none (some 0xFFF))
    else .word s.wordAtPc := by
  unfold State.fetch
  by_cases h1 : 0xFFF ≤ s.pc.toNat
  · have h1' : params.memCeiling ≤ s.pc.toNat := h1
    rw [if_pos h1', if_pos h1]
  · have h1' : ¬ params.memCeiling ≤ s.pc.toNat := h1
    rw [if_neg h1, if_neg h1', s.memRead_of_lt (by omega)]
    by_cases h2 : s.pc.toNat = 0xFFE
    · rw [if_pos h2]
      simp only [h2]
      rw [s.memRead_of_le (by omega)]
    · rw [if_neg h2]
      rw [s.memRead_of_lt (by omega)]
      rfl

/-- About to execute `i`, with the bounds of this hardware as one numeral. -/
theorem State.about_iff (s : State) (i : Instr) : s.About i ↔
    s.engine = .running ∧ s.pc.toNat < 0xFFE ∧ decodeWord s.wordAtPc = .ok i := by
  have h : (s.pc.toNat < 0xFFF ∧ s.pc.toNat + 1 < 4095) ↔ s.pc.toNat < 0xFFE := by omega
  exact and_congr_right fun _ => and_congr_left fun _ => h

/-- The due fault, with the bounds of this hardware as numerals. -/
theorem State.dueFault_eq (s : State) : s.dueFault =
    if 0xFFF ≤ s.pc.toNat then some ⟨.pcOutOfBounds, s.pc, none, none⟩
    else if s.pc.toNat = 0xFFE then some ⟨.memOutOfBounds, s.pc, none, some 0xFFF⟩
    else match decodeWord s.wordAtPc with
      | .error _ => some ⟨.unrecognizedInstruction, s.pc, some s.wordAtPc, none⟩
      | .ok i => ownFault s i := by
  unfold State.dueFault
  by_cases h1 : 0xFFF ≤ s.pc.toNat
  · exact (if_pos h1).trans (if_pos h1).symm
  · rw [if_neg h1, if_neg (show ¬ params.memCeiling ≤ s.pc.toNat from h1)]
    by_cases h2 : s.pc.toNat = 0xFFE
    · rw [if_pos h2, h2]
      rfl
    · refine (if_neg (show ¬ 4095 ≤ s.pc.toNat + 1 by omega)).trans (Eq.trans ?_ (if_neg h2).symm)
      cases decodeWord s.wordAtPc <;> rfl

/-- Everything the first part of a cycle can do. -/
theorem State.beginCycle_cases (s : State) :
    (s.engine ≠ .running ∧ s.beginCycle = .over s) ∨
    (s.engine = .running ∧ 0xFFF ≤ s.pc.toNat ∧
      s.beginCycle = .over (s.raise .pcOutOfBounds none none)) ∨
    (s.engine = .running ∧ s.pc.toNat = 0xFFE ∧
      s.beginCycle = .over (s.raise .memOutOfBounds none (some 0xFFF))) ∨
    (s.engine = .running ∧ s.pc.toNat < 0xFFE ∧ wellFormedWord s.wordAtPc = false ∧
      s.beginCycle = .over ((s.latch s.wordAtPc).raise .unrecognizedInstruction (some s.wordAtPc) none)) ∨
    (∃ i, s.About i ∧ s.beginCycle = .execute i (s.latch s.wordAtPc)) := by
  unfold State.beginCycle
  cases he : s.engine with
  | faulted f => exact .inl ⟨by simp, rfl⟩
  | awaitingKey x => exact .inl ⟨by simp, rfl⟩
  | running =>
    right
    rw [s.fetch_eq]
    by_cases h1 : 0xFFF ≤ s.pc.toNat
    · exact .inl ⟨rfl, h1, by simp only [if_pos h1]⟩
    · right
      by_cases h2 : s.pc.toNat = 0xFFE
      · exact .inl ⟨rfl, h2, by simp only [if_neg h1, if_pos h2]⟩
      · right
        simp only [if_neg h1, if_neg h2]
        rcases decodeWord_spec s.wordAtPc with ⟨hw, i, hd⟩ | ⟨hw, hd⟩
        · exact .inr ⟨i, (s.about_iff i).mpr ⟨he, by omega, hd⟩, by simp only [hd]⟩
        · exact .inl ⟨trivial, by omega, hw, by simp only [hd]⟩

/-- Everything a step can do: the five cases of `beginCycle_cases`, the last through `exec` and the timers. -/
theorem step_cases (s : State) :
    (s.engine ≠ .running ∧ step s = .next s) ∨
    (s.engine = .running ∧ 0xFFF ≤ s.pc.toNat ∧ step s = .next (s.raise .pcOutOfBounds none none)) ∨
    (s.engine = .running ∧ s.pc.toNat = 0xFFE ∧
      step s = .next (s.raise .memOutOfBounds none (some 0xFFF))) ∨
    (s.engine = .running ∧ s.pc.toNat < 0xFFE ∧ wellFormedWord s.wordAtPc = false ∧
      step s = .next ((s.latch s.wordAtPc).raise .unrecognizedInstruction (some s.wordAtPc) none)) ∨
    (∃ i, s.About i ∧ step s = finishCycle (exec i (s.latch s.wordAtPc))) := by
  rcases s.beginCycle_cases with h | h | h | h | ⟨i, h, hb⟩
  · exact .inl ⟨h.1, by simp only [step, h.2]⟩
  · exact .inr (.inl ⟨h.1, h.2.1, by simp only [step, h.2.2]⟩)
  · exact .inr (.inr (.inl ⟨h.1, h.2.1, by simp only [step, h.2.2]⟩))
  · exact .inr (.inr (.inr (.inl ⟨h.1, h.2.1, h.2.2.1, by simp only [step, h.2.2.2]⟩)))
  · exact .inr (.inr (.inr (.inr ⟨i, h, by simp only [step, hb]⟩)))

theorem finishCycle_running {t : State} (h : t.engine = .running) :
    finishCycle (.next t) = .next t.tickTimers := by simp [finishCycle, h]

theorem finishCycle_stopped {t : State} (h : t.engine ≠ .running) :
    finishCycle (.next t) = .next t := by simp [finishCycle, h]

/-- A word placed at `pc` is the word the next fetch reads. -/
theorem State.wordAtPc_placeWord (s : State) (w : Word) (h : s.pc.toNat < 0xFFE) :
    (s.placeWord w).wordAtPc = w := by
  have hx : addrExists (s.pc.toNat + 1) = true := (addrExists_iff _).mpr (by omega)
  have h0 := Mem.read_writeBytes_in [highByte w, lowByte w] s.mem s.pc.toNat 0 (by simp)
  have h1 := Mem.read_writeBytes_in [highByte w, lowByte w] s.mem s.pc.toNat 1 (by simp)
  simp only [State.placeWord, hx, if_true, State.wordAtPc]
  rw [Nat.add_zero] at h0
  rw [h0, h1]
  exact join_bytes w

/-- The host's placing of a table word: the very next step runs the instruction it decodes to. -/
theorem State.about_withFetchWord (s : State) (nbits w : Nat) (i : Instr) (h : s.pc.toNat < 0xFFE)
    (hd : decodeTableWord nbits w = some i) : (s.withFetchWord nbits w).About i := by
  have hx : addrExists (s.pc.toNat + 1) = true := (addrExists_iff _).mpr (by omega)
  rw [decodeTableWord_eq] at hd
  refine (State.about_iff _ i).mpr ⟨by simp [State.withFetchWord, State.placeWord, hx], by
    simpa [State.withFetchWord, State.placeWord, hx] using h, ?_⟩
  rw [State.withFetchWord, State.wordAtPc_placeWord _ _ h]
  cases he : decodeWord (tableWord nbits w) with
  | error e => rw [he] at hd; simp [Except.toOption] at hd
  | ok j => rw [he] at hd; simp [Except.toOption] at hd; rw [hd]

end Sys2Proof.Machine
end

