-- ==== Sys2Proof/Laws/Exec.lean ====
section
/-! SUPPORT. What an instruction can do to the control state, said once for all 34. -/

namespace Sys2Proof.Machine

/-- What no instruction changes: the parameters, the latch and cur_word. -/
structure KeepsFixed (s t : State) : Prop where
  cfg : t.cfg = s.cfg
  keys : t.keys = s.keys
  curWord : t.curWord = s.curWord

/-- What a faulting instruction keeps (60_exceptions.md R252, R261). -/
structure KeepsAtFault (s t : State) : Prop where
  pc : t.pc = s.pc
  dt : t.dt = s.dt
  st : t.st = s.st
  i : t.i = s.i
  stack : t.stack = s.stack

/-- The engine state an instruction leaves when it does not fault. -/
def engineAfter (s : State) : Instr → Engine
  | .ldVK x => .awaitingKey x
  | _ => s.engine

/-- The outcome of an instruction: a fault taken, with its record, or completion. -/
def Outcome (i : Instr) (s t : State) : Prop :=
  KeepsFixed s t ∧
  ((ownFault s i = none ∧ t.engine = engineAfter s i) ∨
    ∃ f, ownFault s i = some f ∧ t.engine = .faulted f ∧ KeepsAtFault s t)

theorem accessFault_none {s : State} {n : Nat} (h : n = 0 ∨ s.base + n ≤ 4095) : s.accessFault n = none :=
  if_pos h

theorem accessFault_some {s : State} {n : Nat} (h : ¬ (n = 0 ∨ s.base + n ≤ 4095))
    (hw : s.curWord = s.wordAtPc) : s.accessFault n =
      some ⟨.memOutOfBounds, s.pc, some s.curWord, some (s.base + (4095 - s.base))⟩ := by
  have hm : max s.i.toNat 4095 = s.base + (4095 - s.base) := by unfold State.base; omega
  have h' : ¬ (n = 0 ∨ s.i.toNat + n ≤ 4095) := h
  rw [State.accessFault, if_neg h', hm, hw]

/-- The instructions that raise nothing and touch only what `KeepsFixed` allows. -/
theorem outcome_completes {i : Instr} {s t : State} (hf : ownFault s i = none)
    (he : t.engine = engineAfter s i) (h1 : t.cfg = s.cfg) (h2 : t.keys = s.keys)
    (h3 : t.curWord = s.curWord) : Outcome i s t :=
  ⟨⟨h1, h2, h3⟩, .inl ⟨hf, he⟩⟩

theorem outcome_storeAtI {i : Instr} {s : State} {bs : List Byte} (hw : s.curWord = s.wordAtPc)
    (hi : ownFault s i = s.accessFault bs.length) (he : engineAfter s i = s.engine) :
    ∃ t, storeAtI bs s = .next t ∧ Outcome i s t := by
  by_cases h : bs.length = 0 ∨ s.base + bs.length ≤ 4095
  · exact ⟨_, storeAtI_fits h, outcome_completes (hi.trans (accessFault_none h)) he.symm rfl rfl rfl⟩
  · exact ⟨_, storeAtI_past h, ⟨rfl, rfl, rfl⟩,
      .inr ⟨_, hi.trans (accessFault_some h hw), rfl, ⟨rfl, rfl, rfl, rfl, rfl⟩⟩⟩

theorem outcome_ldVMem (x : Reg) {s : State} (hw : s.curWord = s.wordAtPc) :
    ∃ t, execLdVMem x s = .next t ∧ Outcome (.ldVMem x) s t := by
  by_cases h : x.val + 1 = 0 ∨ s.base + (x.val + 1) ≤ 4095
  · obtain ⟨v, hv⟩ := s.loadRegs_only (x.val + 1)
    refine ⟨((s.loadRegs (x.val + 1)).advance 2), by
      simp only [execLdVMem, firstMissing_eq, if_pos h], ?_⟩
    rw [hv]
    exact outcome_completes (accessFault_none h) rfl rfl rfl rfl
  · refine ⟨_, by simp only [execLdVMem, firstMissing_eq, if_neg h, raiseMemory]; rfl, ?_⟩
    obtain ⟨v, hv⟩ := s.loadRegs_only (min (Config.freeWritesLanded s.draws) (4095 - s.base))
    rw [hv]
    exact ⟨⟨rfl, rfl, rfl⟩, .inr ⟨_, accessFault_some h hw, rfl, ⟨rfl, rfl, rfl, rfl, rfl⟩⟩⟩

theorem outcome_drw (x y : Reg) (n : Fin 16) {s : State} (hw : s.curWord = s.wordAtPc) :
    ∃ t, execDrw x y n s = .next t ∧ Outcome (.drw x y n) s t := by
  by_cases h : n.val = 0 ∨ s.base + n.val ≤ 4095
  · obtain ⟨p, c, hd⟩ := drawRows_only (s.getV x).toNat (s.getV y).toNat s n.val
    refine ⟨_, by simp only [execDrw, firstMissing_eq, if_pos h]; rfl, ?_⟩
    rw [hd]
    exact outcome_completes (accessFault_none h) rfl rfl rfl rfl
  · refine ⟨_, by simp only [execDrw, firstMissing_eq, if_neg h, raiseMemory]; rfl, ?_⟩
    obtain ⟨p, c, hd⟩ := drawRows_only (s.getV x).toNat (s.getV y).toNat s
      (min (Config.freeWritesLanded s.draws) (4095 - s.base))
    rw [hd]
    exact ⟨⟨rfl, rfl, rfl⟩, .inr ⟨_, accessFault_some h hw, rfl, ⟨rfl, rfl, rfl, rfl, rfl⟩⟩⟩

theorem outcome_ret {s : State} (hw : s.curWord = s.wordAtPc) :
    ∃ t, execRet s = .next t ∧ Outcome .ret s t := by
  by_cases h : s.stack = []
  · have hl : s.stack.getLast? = none := by rw [h]; rfl
    refine ⟨s.raise .stackUnderflow (some s.curWord) none, by simp only [execRet, hl]; rfl,
      ⟨rfl, rfl, rfl⟩, .inr ⟨_, if_pos h, ?_, ⟨rfl, rfl, rfl, rfl, rfl⟩⟩⟩
    rw [← hw]; rfl
  · have : s.stack.getLast? = some (s.stack.getLast h) := List.getLast?_eq_some_getLast h
    exact ⟨(s.setStack s.stack.dropLast).setPc (s.stack.getLast h + 2#16), by
      simp only [execRet, this], outcome_completes (if_neg h) rfl rfl rfl rfl⟩

theorem outcome_call (nnn : Addr) {s : State} (hw : s.curWord = s.wordAtPc) :
    ∃ t, execCall nnn s = .next t ∧ Outcome (.call nnn) s t := by
  by_cases h : s.cfg.stackCapacity = some s.stack.length
  · have hb : s.stackFull = true := by simpa [State.stackFull] using h
    refine ⟨_, if_pos hb, ⟨rfl, rfl, rfl⟩, .inr ⟨_, if_pos h, ?_, ⟨rfl, rfl, rfl, rfl, rfl⟩⟩⟩
    rw [← hw]; rfl
  · have hb : ¬ s.stackFull = true := by simpa [State.stackFull] using h
    exact ⟨_, if_neg hb, outcome_completes (if_neg h) rfl rfl rfl rfl⟩

theorem outcome_sneReg (x y : Reg) (s : State) :
    ∃ t, execSneReg x y s = .next t ∧ Outcome (.sneReg x y) s t := by
  refine ⟨_, rfl, ?_⟩
  cases h : s.cfg.nineFlag <;> simp only [State.nineFlag, State.advance_cfg, h] <;>
    exact outcome_completes rfl rfl rfl rfl rfl

/-- Every instruction answers a next state with the outcome its own fault check computes. -/
theorem exec_outcome (i : Instr) {s : State} (hw : s.curWord = s.wordAtPc) :
    ∃ t, exec i s = .next t ∧ Outcome i s t := by
  cases i with
  | ret => exact outcome_ret hw
  | call nnn => exact outcome_call nnn hw
  | sneReg x y => exact outcome_sneReg x y s
  | drw x y n => exact outcome_drw x y n hw
  | ldB x => exact outcome_storeAtI hw rfl rfl
  | ldMemV x => exact outcome_storeAtI hw (by simp [ownFault]) rfl
  | ldVMem x => exact outcome_ldVMem x hw
  | _ => exact ⟨_, rfl, outcome_completes rfl rfl rfl rfl rfl⟩

end Sys2Proof.Machine
end

