-- ==== Sys2Proof/Laws/PerInstr.lean ====
section
/-! SUPPORT. Statements about every instruction as syntax, one lemma per constructor. -/

namespace Sys2Proof.Laws.EncodedLegal

/-- The word of an instruction is none of the illegal words of 30_encoding.md R98. -/
def Statement (i : Instr) : Prop := wellFormedWord (encode i) = true

theorem cls : Statement (.cls) := by
  simp [Statement, encode, wellFormedWord, family0Legal]

theorem ret : Statement (.ret) := by
  simp [Statement, encode, wellFormedWord, family0Legal]

theorem jp (nnn : Addr) : Statement (.jp nnn) := by
  simp [Statement, encode, wellFormedWord]

theorem call (nnn : Addr) : Statement (.call nnn) := by
  simp [Statement, encode, wellFormedWord]

theorem seImm (x : Reg) (kk : Byte) : Statement (.seImm x kk) := by
  simp [Statement, encode, wellFormedWord]

theorem sneImm (x : Reg) (kk : Byte) : Statement (.sneImm x kk) := by
  simp [Statement, encode, wellFormedWord]

theorem seReg (x y : Reg) : Statement (.seReg x y) := by
  simp [Statement, encode, wellFormedWord]

theorem ldImm (x : Reg) (kk : Byte) : Statement (.ldImm x kk) := by
  simp [Statement, encode, wellFormedWord]

theorem addImm (x : Reg) (kk : Byte) : Statement (.addImm x kk) := by
  simp [Statement, encode, wellFormedWord]

theorem ldReg (x y : Reg) : Statement (.ldReg x y) := by
  simp [Statement, encode, wellFormedWord, family8Legal]

theorem orReg (x y : Reg) : Statement (.orReg x y) := by
  simp [Statement, encode, wellFormedWord, family8Legal]

theorem andReg (x y : Reg) : Statement (.andReg x y) := by
  simp [Statement, encode, wellFormedWord, family8Legal]

theorem xorReg (x y : Reg) : Statement (.xorReg x y) := by
  simp [Statement, encode, wellFormedWord, family8Legal]

theorem addReg (x y : Reg) : Statement (.addReg x y) := by
  simp [Statement, encode, wellFormedWord, family8Legal]

theorem sub (x y : Reg) : Statement (.sub x y) := by
  simp [Statement, encode, wellFormedWord, family8Legal]

theorem shr (x : Reg) : Statement (.shr x) := by
  simp [Statement, encode, wellFormedWord, family8Legal]

theorem subn (x y : Reg) : Statement (.subn x y) := by
  simp [Statement, encode, wellFormedWord, family8Legal]

theorem shl (x : Reg) : Statement (.shl x) := by
  simp [Statement, encode, wellFormedWord, family8Legal]

theorem sneReg (x y : Reg) : Statement (.sneReg x y) := by
  simp [Statement, encode, wellFormedWord]

theorem ldI (nnn : Addr) : Statement (.ldI nnn) := by
  simp [Statement, encode, wellFormedWord]

theorem jpV0 (nnn : Addr) : Statement (.jpV0 nnn) := by
  simp [Statement, encode, wellFormedWord]

theorem rnd (x : Reg) (kk : Byte) : Statement (.rnd x kk) := by
  simp [Statement, encode, wellFormedWord]

theorem drw (x y : Reg) (n : Fin 16) : Statement (.drw x y n) := by
  simp [Statement, encode, wellFormedWord]

theorem skp (x : Reg) : Statement (.skp x) := by
  simp [Statement, encode, wellFormedWord, familyELegal]

theorem sknp (x : Reg) : Statement (.sknp x) := by
  simp [Statement, encode, wellFormedWord, familyELegal]

theorem ldVDt (x : Reg) : Statement (.ldVDt x) := by
  simp [Statement, encode, wellFormedWord, familyFLegal]

theorem ldVK (x : Reg) : Statement (.ldVK x) := by
  simp [Statement, encode, wellFormedWord, familyFLegal]

theorem ldDtV (x : Reg) : Statement (.ldDtV x) := by
  simp [Statement, encode, wellFormedWord, familyFLegal]

theorem ldStV (x : Reg) : Statement (.ldStV x) := by
  simp [Statement, encode, wellFormedWord, familyFLegal]

theorem addI (x : Reg) : Statement (.addI x) := by
  simp [Statement, encode, wellFormedWord, familyFLegal]

theorem ldF (x : Reg) : Statement (.ldF x) := by
  simp [Statement, encode, wellFormedWord, familyFLegal]

theorem ldB (x : Reg) : Statement (.ldB x) := by
  simp [Statement, encode, wellFormedWord, familyFLegal]

theorem ldMemV (x : Reg) : Statement (.ldMemV x) := by
  simp [Statement, encode, wellFormedWord, familyFLegal]

theorem ldVMem (x : Reg) : Statement (.ldVMem x) := by
  simp [Statement, encode, wellFormedWord, familyFLegal]

end Sys2Proof.Laws.EncodedLegal
end

