-- ==== Sys2Proof/Tests/Slice0.lean ====
section
/-! SUPPORT. Tests, each about one decoding or one step, with results taken from the spec's vectors
(spec/95_test_vectors.md: W1 to W12, V1 to V125) or computed by hand from its rules; and for every
statement with hypotheses a witness that meets them. -/

namespace Sys2Proof.Tests

open Sys2Proof.Machine

/-! ## Helpers -/

/-- The outcome is a next state that satisfies `p`. -/
def Answers (r : Result) (p : State → Prop) : Prop := ∃ t, r = .next t ∧ p t

theorem answers_of {r : Result} {p : State → Prop} [DecidablePred p]
    (h : (match r with | .next t => decide (p t) | .fault _ => false | .refused _ => false) = true) :
    Answers r p := by
  cases r with
  | next t => exact ⟨t, rfl, of_decide_eq_true h⟩
  | fault f => exact absurd h Bool.false_ne_true
  | refused f => exact absurd h Bool.false_ne_true

/-- A machine with known colours and some registers and bytes set. -/
def box (regs : List (Reg × Byte)) (i : Word) (bytes : List (Nat × Byte)) : State :=
  regs.foldr (fun r s => s.setV r.1 r.2)
    { State.reset with
      i := i, mem := Mem.ofCells bytes,
      cfg := { hardware with onColor := 1#32, offColor := 0#32 },
      color := Vector.replicate 2048 0#32 }

/-- The machine with a word placed at `pc`. -/
def place (s : State) (w : Nat) : State := s.withFetchWord 16 w

/-! ## The well-formedness smoke test (30_encoding.md R98), one ill-formed and one well-formed word a check -/

theorem test_wellFormed_family0_refused :
    wellFormedWord 0x0000#16 = false ∧ wellFormedWord 0x0123#16 = false ∧ wellFormedWord 0x00EF#16 = false := by
  decide
theorem test_wellFormed_family0_accepted :
    wellFormedWord 0x00E0#16 = true ∧ wellFormedWord 0x0FEE#16 = true := by
  decide
theorem test_wellFormed_family8_refused :
    wellFormedWord 0x8008#16 = false ∧ wellFormedWord 0x800D#16 = false ∧ wellFormedWord 0x800F#16 = false := by
  decide
theorem test_wellFormed_family8_accepted :
    wellFormedWord 0x8007#16 = true ∧ wellFormedWord 0x800E#16 = true := by
  decide
theorem test_wellFormed_familyE_refused :
    wellFormedWord 0xE000#16 = false ∧ wellFormedWord 0xE19F#16 = false := by
  decide
theorem test_wellFormed_familyE_accepted :
    wellFormedWord 0xE09E#16 = true ∧ wellFormedWord 0xEFA1#16 = true := by
  decide
theorem test_wellFormed_familyF_refused :
    wellFormedWord 0xF000#16 = false ∧ wellFormedWord 0xF0FF#16 = false ∧ wellFormedWord 0xF034#16 = false := by
  decide
theorem test_wellFormed_familyF_accepted :
    wellFormedWord 0xF007#16 = true ∧ wellFormedWord 0xF165#16 = true := by
  decide
theorem test_wellFormed_others_accepted :
    wellFormedWord 0x1000#16 = true ∧ wellFormedWord 0x512F#16 = true ∧ wellFormedWord 0x9FFF#16 = true ∧ wellFormedWord 0xDFFF#16 = true := by
  decide

/-! ## Decoding: one word a constructor, written out from 30_encoding.md R92 -/

theorem test_decode_cls : decodeWord 0x00E0#16 = .ok .cls := by decide
theorem test_decode_ret : decodeWord 0x00EE#16 = .ok .ret := by decide
theorem test_decode_jp : decodeWord 0x1ABC#16 = .ok (.jp 0xABC#12) := by decide
theorem test_decode_call : decodeWord 0x2300#16 = .ok (.call 0x300#12) := by decide
theorem test_decode_seImm : decodeWord 0x3342#16 = .ok (.seImm 3 0x42#8) := by decide
theorem test_decode_sneImm : decodeWord 0x4342#16 = .ok (.sneImm 3 0x42#8) := by decide
theorem test_decode_seReg : decodeWord 0x5120#16 = .ok (.seReg 1 2) := by decide
theorem test_decode_ldImm : decodeWord 0x6AFF#16 = .ok (.ldImm 10 0xFF#8) := by decide
theorem test_decode_addImm : decodeWord 0x72FF#16 = .ok (.addImm 2 0xFF#8) := by decide
theorem test_decode_ldReg : decodeWord 0x8120#16 = .ok (.ldReg 1 2) := by decide
theorem test_decode_orReg : decodeWord 0x8121#16 = .ok (.orReg 1 2) := by decide
theorem test_decode_andReg : decodeWord 0x8122#16 = .ok (.andReg 1 2) := by decide
theorem test_decode_xorReg : decodeWord 0x8123#16 = .ok (.xorReg 1 2) := by decide
theorem test_decode_addReg : decodeWord 0x8124#16 = .ok (.addReg 1 2) := by decide
theorem test_decode_sub : decodeWord 0x8125#16 = .ok (.sub 1 2) := by decide
theorem test_decode_shr : decodeWord 0x8126#16 = .ok (.shr 1) := by decide
theorem test_decode_subn : decodeWord 0x8127#16 = .ok (.subn 1 2) := by decide
theorem test_decode_shl : decodeWord 0x812E#16 = .ok (.shl 1) := by decide
theorem test_decode_sneReg : decodeWord 0x912F#16 = .ok (.sneReg 1 2) := by decide
theorem test_decode_ldI : decodeWord 0xAFFF#16 = .ok (.ldI 0xFFF#12) := by decide
theorem test_decode_jpV0 : decodeWord 0xB300#16 = .ok (.jpV0 0x300#12) := by decide
theorem test_decode_rnd : decodeWord 0xC30F#16 = .ok (.rnd 3 0x0F#8) := by decide
theorem test_decode_drw : decodeWord 0xD12F#16 = .ok (.drw 1 2 15) := by decide
theorem test_decode_skp : decodeWord 0xE59E#16 = .ok (.skp 5) := by decide
theorem test_decode_sknp : decodeWord 0xE5A1#16 = .ok (.sknp 5) := by decide
theorem test_decode_ldVDt : decodeWord 0xF307#16 = .ok (.ldVDt 3) := by decide
theorem test_decode_ldVK : decodeWord 0xF30A#16 = .ok (.ldVK 3) := by decide
theorem test_decode_ldDtV : decodeWord 0xF315#16 = .ok (.ldDtV 3) := by decide
theorem test_decode_ldStV : decodeWord 0xF318#16 = .ok (.ldStV 3) := by decide
theorem test_decode_addI : decodeWord 0xF21E#16 = .ok (.addI 2) := by decide
theorem test_decode_ldF : decodeWord 0xFF29#16 = .ok (.ldF 15) := by decide
theorem test_decode_ldB : decodeWord 0xF033#16 = .ok (.ldB 0) := by decide
theorem test_decode_ldMemV : decodeWord 0xF255#16 = .ok (.ldMemV 2) := by decide
theorem test_decode_ldVMem : decodeWord 0xF265#16 = .ok (.ldVMem 2) := by decide

/-- The bits of `Dxyn` one by one: family 1101, x 0001, y 0010, n 1111 (30_encoding.md R87). -/
theorem test_decode_bits : decodeWord 0b1101000100101111#16 = .ok (.drw 1 2 15) := by decide

/-- The host's numbering: the table's 16 bits are the word (20_memory.md R67 for the byte order). -/
theorem test_decodeTableWord : decodeTableWord 16 0x6AFF = some (.ldImm 10 0xFF#8) ∧
    decodeTableWord 16 0xF0FF = none := by decide

/-- W1b: the byte-order flag. -/
theorem test_decode_swapped : decodeFields 0x1480#16 true = decodeFields 0x8014#16 false := by decide

theorem test_encode_bytes : encodeBytes (.drw 1 2 15) = [0xD1#8, 0x2F#8] := by decide

/-! ## One step, from the spec's vectors -/

/-- W2: every pixel off, every colour word OFF_COLOR. -/
theorem test_cls :
    Answers (step (place
      { box [] 0#16 [] with plane := Vector.replicate 2048 true, color := Vector.replicate 2048 1#32 } 0x00E0))
      (fun t => t.pixel 5 = false ∧ t.colorAt 5 = 0#32 ∧ t.pixel 6 = false ∧ t.pc = 0x202#16) :=
  answers_of (by decide)

/-- V24 with a second entry below: the popped address plus 2. -/
theorem test_ret :
    Answers (step (place
      { box [] 0#16 [] with pc := 0x310#16, stack := [0x300#16, 0x202#16] } 0x00EE))
      (fun t => t.pc = 0x204#16 ∧ t.stack = [0x300#16]) :=
  answers_of (by decide)

/-- V20: an empty stack faults with code 3. -/
theorem test_ret_empty :
    Answers (step (place
      (box [] 0#16 []) 0x00EE))
      (fun t => t.engine = .faulted ⟨.stackUnderflow, 0x200#16, some 0x00EE#16, none⟩ ∧ t.pc = 0x200#16) :=
  answers_of (by decide)

/-- V21. -/
theorem test_jp :
    Answers (step (place
      (box [] 0#16 []) 0x1ABC))
      (fun t => t.pc = 0xABC#16) :=
  answers_of (by decide)

/-- V23: the CALL's own address is pushed. -/
theorem test_call :
    Answers (step (place
      { box [] 0#16 [] with pc := 0x202#16 } 0x2300))
      (fun t => t.pc = 0x300#16 ∧ t.stack = [0x202#16]) :=
  answers_of (by decide)

/-- 10_state.md R30: a full stack of a bounded build faults with code 5. -/
theorem test_call_full :
    Answers (step (place
      { box [] 0#16 [] with cfg := { hardware with onColor := 1#32, offColor := 0#32, stackCapacity := some 1 }, stack := [0x204#16] } 0x2300))
      (fun t => t.engine = .faulted ⟨.stackOverflow, 0x200#16, some 0x2300#16, none⟩ ∧ t.stack = [0x204#16]) :=
  answers_of (by decide)

/-- V25. -/
theorem test_seImm_skips :
    Answers (step (place
      { box [(3, 0x42#8)] 0#16 [] with pc := 0x300#16 } 0x3342))
      (fun t => t.pc = 0x304#16) :=
  answers_of (by decide)

/-- V26. -/
theorem test_seImm_falls :
    Answers (step (place
      { box [(3, 0x41#8)] 0#16 [] with pc := 0x300#16 } 0x3342))
      (fun t => t.pc = 0x302#16) :=
  answers_of (by decide)

/-- V27. -/
theorem test_sneImm_skips :
    Answers (step (place
      { box [(3, 0x41#8)] 0#16 [] with pc := 0x300#16 } 0x4342))
      (fun t => t.pc = 0x304#16) :=
  answers_of (by decide)

/-- V28. -/
theorem test_sneImm_falls :
    Answers (step (place
      { box [(3, 0x42#8)] 0#16 [] with pc := 0x300#16 } 0x4342))
      (fun t => t.pc = 0x302#16) :=
  answers_of (by decide)

/-- V29. -/
theorem test_seReg_skips :
    Answers (step (place
      (box [(1, 7#8), (2, 7#8)] 0#16 []) 0x5120))
      (fun t => t.pc = 0x204#16) :=
  answers_of (by decide)

/-- V30: the low nibble is ignored. -/
theorem test_seReg_falls :
    Answers (step (place
      (box [(1, 7#8), (2, 8#8)] 0#16 []) 0x512F))
      (fun t => t.pc = 0x202#16) :=
  answers_of (by decide)

/-- V32, AsWritten: equal operands do not advance pc. -/
theorem test_sneReg_stalls :
    Answers (step (place
      (box [(1, 1#8), (2, 1#8)] 0#16 []) 0x9120))
      (fun t => t.pc = 0x200#16 ∧ t.engine = .running) :=
  answers_of (by decide)

/-- V31, Conventional and Keep. -/
theorem test_sneReg_conventional :
    Answers (step (place
      { box [(1, 1#8), (2, 2#8), (15, 9#8)] 0#16 [] with cfg := { hardware with nineSkipMode := .conventional, nineFlag := .keep } } 0x9120))
      (fun t => t.pc = 0x204#16 ∧ t.getV 15 = 9#8) :=
  answers_of (by decide)

/-- V34: the sum is masked to no width. -/
theorem test_jpV0 :
    Answers (step (place
      (box [(0, 0x10#8)] 0#16 []) 0xBFF0))
      (fun t => t.pc = 0x1000#16) :=
  answers_of (by decide)

/-- V40. -/
theorem test_ldImm :
    Answers (step (place
      (box [] 0#16 []) 0x6AFF))
      (fun t => t.getV 10 = 0xFF#8 ∧ t.pc = 0x202#16) :=
  answers_of (by decide)

/-- V3: a fetch at an odd address. -/
theorem test_ldImm_odd :
    Answers (step (place
      { box [] 0#16 [] with pc := 0x201#16 } 0x6005))
      (fun t => t.getV 0 = 5#8 ∧ t.pc = 0x203#16) :=
  answers_of (by decide)

/-- V42: no flag. -/
theorem test_addImm :
    Answers (step (place
      (box [(0, 0xFF#8), (15, 5#8)] 0#16 []) 0x7001))
      (fun t => t.getV 0 = 0#8 ∧ t.getV 15 = 5#8) :=
  answers_of (by decide)

/-- V43. -/
theorem test_ldReg :
    Answers (step (place
      (box [(1, 0x33#8)] 0#16 []) 0x8010))
      (fun t => t.getV 0 = 0x33#8) :=
  answers_of (by decide)

/-- V44. -/
theorem test_orReg :
    Answers (step (place
      (box [(0, 0xF0#8), (1, 0x0F#8), (15, 7#8)] 0#16 []) 0x8011))
      (fun t => t.getV 0 = 0xFF#8 ∧ t.getV 15 = 7#8) :=
  answers_of (by decide)

/-- V45. -/
theorem test_andReg :
    Answers (step (place
      (box [(0, 0xF0#8), (1, 0x3C#8)] 0#16 []) 0x8012))
      (fun t => t.getV 0 = 0x30#8) :=
  answers_of (by decide)

/-- V46. -/
theorem test_xorReg :
    Answers (step (place
      (box [(0, 0xFF#8), (1, 0x0F#8)] 0#16 []) 0x8013))
      (fun t => t.getV 0 = 0xF0#8) :=
  answers_of (by decide)

/-- W3. -/
theorem test_addReg :
    Answers (step (place
      (box [(0, 0xFF#8), (1, 1#8)] 0#16 []) 0x8014))
      (fun t => t.getV 0 = 0#8 ∧ t.getV 15 = 1#8 ∧ t.getV 1 = 1#8) :=
  answers_of (by decide)

/-- V51: the flag overwrites the sum. -/
theorem test_addReg_flag :
    Answers (step (place
      (box [(15, 1#8), (1, 2#8)] 0#16 []) 0x8F14))
      (fun t => t.getV 15 = 0#8) :=
  answers_of (by decide)

/-- W6. -/
theorem test_sub :
    Answers (step (place
      (box [(0, 3#8), (1, 5#8)] 0#16 []) 0x8015))
      (fun t => t.getV 0 = 0xFE#8 ∧ t.getV 15 = 0#8) :=
  answers_of (by decide)

/-- V53: the comparison is strict. -/
theorem test_sub_equal :
    Answers (step (place
      (box [(0, 5#8), (1, 5#8), (15, 7#8)] 0#16 []) 0x8015))
      (fun t => t.getV 0 = 0#8 ∧ t.getV 15 = 0#8) :=
  answers_of (by decide)

/-- V57: y is ignored. -/
theorem test_shr :
    Answers (step (place
      (box [(0, 5#8), (1, 0xAA#8)] 0#16 []) 0x8016))
      (fun t => t.getV 0 = 2#8 ∧ t.getV 15 = 1#8) :=
  answers_of (by decide)

/-- V58. -/
theorem test_shr_flag :
    Answers (step (place
      (box [(15, 3#8)] 0#16 []) 0x8FF6))
      (fun t => t.getV 15 = 1#8) :=
  answers_of (by decide)

/-- V59. -/
theorem test_subn :
    Answers (step (place
      (box [(0, 3#8), (1, 5#8)] 0#16 []) 0x8017))
      (fun t => t.getV 0 = 2#8 ∧ t.getV 15 = 1#8) :=
  answers_of (by decide)

/-- V62, AsWritten. -/
theorem test_shl :
    Answers (step (place
      (box [(0, 0x81#8), (15, 7#8)] 0#16 []) 0x800E))
      (fun t => t.getV 0 = 2#8 ∧ t.getV 15 = 0#8) :=
  answers_of (by decide)

/-- V65, Bit7. -/
theorem test_shl_bit7 :
    Answers (step (place
      { box [(15, 0xC0#8)] 0#16 [] with cfg := { hardware with shlFlagMode := .bit7 } } 0x8FFE))
      (fun t => t.getV 15 = 1#8) :=
  answers_of (by decide)

/-- V71. -/
theorem test_ldI :
    Answers (step (place
      (box [] 0#16 []) 0xAFFF))
      (fun t => t.i = 0xFFF#16 ∧ t.engine = .running) :=
  answers_of (by decide)

/-- V73. -/
theorem test_addI :
    Answers (step (place
      (box [(0, 2#8)] 0xFFFF#16 []) 0xF01E))
      (fun t => t.i = 1#16) :=
  answers_of (by decide)

/-- V76. -/
theorem test_ldF :
    Answers (step (place
      (box [(0, 0xFF#8)] 0#16 []) 0xF029))
      (fun t => t.i = 0x4FB#16) :=
  answers_of (by decide)

/-- V77. -/
theorem test_ldB :
    Answers (step (place
      (box [(0, 0xFE#8)] 0x300#16 []) 0xF033))
      (fun t => t.mem.read 0x300 = 2#8 ∧ t.mem.read 0x301 = 5#8 ∧ t.mem.read 0x302 = 4#8 ∧ t.i = 0x300#16) :=
  answers_of (by decide)

/-- V80. -/
theorem test_ldB_past :
    Answers (step (place
      (box [(0, 123#8)] 0xFFD#16 []) 0xF033))
      (fun t => t.engine = .faulted ⟨.memOutOfBounds, 0x200#16, some 0xF033#16, some 0xFFF⟩ ∧ t.pc = 0x200#16) :=
  answers_of (by decide)

/-- V81. -/
theorem test_ldMemV :
    Answers (step (place
      (box [(0, 1#8), (1, 2#8), (2, 3#8), (3, 4#8)] 0x300#16 []) 0xF255))
      (fun t => t.mem = [(0x200, 0xF2#8), (0x201, 0x55#8), (0x300, 1#8), (0x301, 2#8), (0x302, 3#8)] ∧ t.i = 0x300#16) :=
  answers_of (by decide)

/-- V87: the font is not protected. -/
theorem test_ldMemV_font :
    Answers (step (place
      (box [(0, 0x99#8)] 0#16 []) 0xF055))
      (fun t => t.mem.read 0 = 0x99#8) :=
  answers_of (by decide)

/-- V84. -/
theorem test_ldVMem :
    Answers (step (place
      (box [(3, 9#8)] 0x300#16 [(0x300, 2#8), (0x301, 5#8), (0x302, 4#8), (0x303, 1#8)]) 0xF265))
      (fun t => t.getV 0 = 2#8 ∧ t.getV 1 = 5#8 ∧ t.getV 2 = 4#8 ∧ t.getV 3 = 9#8) :=
  answers_of (by decide)

/-- V86. -/
theorem test_ldVMem_last :
    Answers (step (place
      (box [] 0x300#16 [(0x30F, 0xAB#8)]) 0xFF65))
      (fun t => t.getV 15 = 0xAB#8) :=
  answers_of (by decide)

/-- V90: the row spills into the next. -/
theorem test_drw_spill :
    Answers (step (place
      (box [(0, 62#8), (1, 0#8)] 0x300#16 [(0x300, 0xFF#8)]) 0xD011))
      (fun t => t.pixel 62 = true ∧ t.pixel 63 = true ∧ t.pixel 64 = true ∧ t.pixel 69 = true ∧
        t.pixel 70 = false ∧ t.pixel 0 = false ∧ t.colorAt 69 = 1#32 ∧ t.getV 15 = 0#8) :=
  answers_of (by decide)

/-- W7, the second draw, on a plane that is all on. -/
theorem test_drw_hit :
    Answers (step (place
      { box [(0, 0#8), (1, 0#8)] 0x300#16 [(0x300, 0x80#8)] with plane := Vector.replicate 2048 true, color := Vector.replicate 2048 1#32 } 0xD011))
      (fun t => t.pixel 0 = false ∧ t.pixel 1 = true ∧ t.colorAt 0 = 0#32 ∧ t.getV 15 = 1#8) :=
  answers_of (by decide)

/-- V115. -/
theorem test_skp :
    Answers (step (place
      { box [(5, 0x0C#8)] 0#16 [] with pc := 0x300#16, keys := (Vector.replicate 16 false).set 12 true } 0xE59E))
      (fun t => t.pc = 0x304#16) :=
  answers_of (by decide)

/-- V118: 16 names no key. -/
theorem test_skp_noKey :
    Answers (step (place
      { box [(5, 0x10#8)] 0#16 [] with pc := 0x300#16, keys := (Vector.replicate 16 false).set 0 true } 0xE59E))
      (fun t => t.pc = 0x302#16) :=
  answers_of (by decide)

/-- V117. -/
theorem test_sknp :
    Answers (step (place
      { box [(5, 0x0C#8)] 0#16 [] with pc := 0x300#16 } 0xE5A1))
      (fun t => t.pc = 0x304#16) :=
  answers_of (by decide)

/-- V119. -/
theorem test_sknp_noKey :
    Answers (step (place
      { box [(5, 0x10#8)] 0#16 [] with pc := 0x300#16 } 0xE5A1))
      (fun t => t.pc = 0x304#16) :=
  answers_of (by decide)

/-- V110: the value before the tick. -/
theorem test_ldVDt :
    Answers (step (place
      { box [] 0#16 [] with dt := 5#8 } 0xF307))
      (fun t => t.getV 3 = 5#8 ∧ t.dt = 4#8) :=
  answers_of (by decide)

/-- V112: the new value ticks. -/
theorem test_ldDtV :
    Answers (step (place
      (box [(0, 5#8)] 0#16 []) 0xF015))
      (fun t => t.dt = 4#8) :=
  answers_of (by decide)

/-- V114. -/
theorem test_ldStV :
    Answers (step (place
      (box [(1, 1#8)] 0#16 []) 0xF118))
      (fun t => t.st = 0#8 ∧ t.dt = 0#8) :=
  answers_of (by decide)

/-- V120: no tick, and a held key does not end the wait. -/
theorem test_ldVK :
    Answers (step (place
      { box [] 0#16 [] with pc := 0x210#16, dt := 4#8, keys := Vector.replicate 16 true } 0xF30A))
      (fun t => t.engine = .awaitingKey 3 ∧ t.pc = 0x210#16 ∧ t.dt = 4#8) :=
  answers_of (by decide)

/-- V5. -/
theorem test_unrecognized :
    Answers (step (place
      (box [] 0#16 []) 0x8008))
      (fun t => t.engine = .faulted ⟨.unrecognizedInstruction, 0x200#16, some 0x8008#16, none⟩) :=
  answers_of (by decide)

/-- V67: under the mask 0 every random byte gives 0. -/
theorem test_rnd_mask : Answers (step (place (box [(3, 7#8)] 0#16 []) 0xC300)) (fun t => t.getV 3 = 0#8) :=
  ⟨_, rfl, BitVec.and_zero⟩

/-- V1: the fault is taken before any byte is read, and no timer ticks. -/
theorem test_fetch_ceiling : Answers (step { State.reset with pc := 0xFFF#16, dt := 3#8 })
    (fun t => t.engine = .faulted ⟨.pcOutOfBounds, 0xFFF#16, none, none⟩ ∧ t.dt = 3#8) :=
  answers_of (by decide)

/-- V2: the second byte is past memory. -/
theorem test_fetch_last : Answers (step { State.reset with pc := 0xFFE#16 })
    (fun t => t.engine = .faulted ⟨.memOutOfBounds, 0xFFE#16, none, some 0xFFF⟩) :=
  answers_of (by decide)

/-- V121, Advance; V124 with the register VF. -/
theorem test_deliver_advance :
    ((State.deliverKey { State.reset with engine := .awaitingKey 15, pc := 0x210#16 } 10).pc = 0x212#16) ∧
    (State.deliverKey { State.reset with engine := .awaitingKey 15, pc := 0x210#16 } 10).getV 15 = 10#8 := by
  decide

/-- 20_memory.md R65: glyph A, the five bytes at 0x032. -/
theorem test_font : (List.range 5).map (fun j => State.reset.mem.read (0x032 + j)) =
    [0xF0#8, 0x90#8, 0xF0#8, 0x90#8, 0x90#8] := by decide

/-! ## Witnesses: for every statement with hypotheses, a state and operands that meet them -/
/-- A machine at rest with a known configuration; `I` at the last address from which three bytes fit. -/
def low : State := box [(1, 7#8), (2, 7#8), (3, 0x10#8)] 0xFFC#16 [(0xFFC, 0xC0#8)]

/-- The same with the other choice of every mode, `I` one further, and a stack of capacity 1 that is full. -/
def high : State :=
  { box [(1, 7#8), (2, 8#8), (15, 3#8)] 0xFFD#16 [(0xFFD, 0xC0#8)] with
    stack := [0x204#16]
    cfg := { onColor := 1#32, offColor := 0#32, nineSkipMode := .conventional, nineFlag := .keep,
             shlFlagMode := .bit7, fx0aResume := .refetch, stackCapacity := some 1 } }

/-- A placed word that decodes to `i` is about to be executed. -/
theorem about_place {s : State} {w : Nat} {i : Instr} (h : s.pc.toNat < 0xFFE)
    (hd : decodeTableWord 16 w = some i) : (place s w).About i :=
  s.about_withFetchWord 16 w i h hd

theorem witness_DecoderIgnoresOnlyTheIgnoredBits :
    decodeWord 0x512F#16 = .ok (.seReg 1 2) ∧
    0x5120#16 &&& ~~~ ignoredBits (.seReg 1 2) = 0x512F#16 &&& ~~~ ignoredBits (.seReg 1 2) ∧
    decodeWord 0x0FE0#16 = .ok .cls ∧
    0x00E0#16 &&& ~~~ ignoredBits .cls = 0x0FE0#16 &&& ~~~ ignoredBits .cls := by decide

/-- A word of the illegal space in each of its four families, and a legal neighbour. -/
theorem witness_DecoderRefusesExactlyTheIllegalWords :
    ((0x0000 / 4096 = 0 ∧ 0x0000 % 256 ∉ [0xE0, 0xEE]) ∧
      (0x8008 / 4096 = 8 ∧ 0x8008 % 16 ∈ [0x8, 0x9, 0xA, 0xB, 0xC, 0xD, 0xF]) ∧
      (0xE000 / 4096 = 0xE ∧ 0xE000 % 256 ∉ [0x9E, 0xA1]) ∧
      0xF000 / 4096 = 0xF ∧ 0xF000 % 256 ∉ [0x07, 0x0A, 0x15, 0x18, 0x1E, 0x29, 0x33, 0x55, 0x65]) ∧
    0x8007 / 4096 = 8 ∧ 0x8007 % 16 ∉ [0x8, 0x9, 0xA, 0xB, 0xC, 0xD, 0xF] := by decide

/-- At the last `pc` whose word exists: an instruction that leaves the engine Running, and one that does not. -/
theorem witness_StepRunsTheDecodedInstruction :
    (∃ s : State, s.engine = .running ∧ s.pc.toNat + 1 < 4095 ∧ s.pc.toNat = 0xFFD ∧
      s.mem.read s.pc.toNat = 0x6A#8 ∧ s.mem.read (s.pc.toNat + 1) = 0xFF#8 ∧
      decodeBytes [0x6A#8, 0xFF#8] = .ok (.ldImm 10 0xFF#8, []) ∧
      Answers (exec (.ldImm 10 0xFF#8) { s with curWord := joinBytes 0x6A#8 0xFF#8 })
        (fun t => t.engine = .running)) ∧
    ∃ s : State, s.engine = .running ∧ s.pc.toNat + 1 < 4095 ∧
      s.mem.read s.pc.toNat = 0xF3#8 ∧ s.mem.read (s.pc.toNat + 1) = 0x0A#8 ∧
      decodeBytes [0xF3#8, 0x0A#8] = .ok (.ldVK 3, []) ∧
      Answers (exec (.ldVK 3) { s with curWord := joinBytes 0xF3#8 0x0A#8 })
        (fun t => t.engine ≠ .running) :=
  ⟨⟨place { low with pc := 0xFFD#16 } 0x6AFF, by decide, by decide, by decide, by decide, by decide, by decide,
    answers_of (by decide)⟩,
   place low 0xF30A, by decide, by decide, by decide, by decide, by decide, answers_of (by decide)⟩

theorem witness_FetchAtTheCeilingFaults :
    (∃ s : State, s.engine = .running ∧ 0xFFF ≤ s.pc.toNat ∧ s.pc.toNat = 0xFFF) ∧
    State.reset.engine = .running :=
  ⟨⟨{ State.reset with pc := 0xFFF#16 }, by decide⟩, rfl⟩

theorem witness_FetchAndDecodeFaults :
    (∃ s : State, s.engine = .running ∧ s.pc.toNat = 0xFFE) ∧
    ∃ (s : State) (w : Word), s.engine = .running ∧ s.pc.toNat < 0xFFE ∧ s.wordAtPc = w ∧
      ∀ i, decodeWord w ≠ .ok i :=
  ⟨⟨{ State.reset with pc := 0xFFE#16 }, by decide⟩,
   place { low with pc := 0xFFD#16 } 0xF0FF, 0xF0FF#16, by decide, by decide, by decide, by
    have h : decodeWord 0xF0FF#16 = .error (.unrecognized 0xF0FF#16) := by decide
    intro i; rw [h]; exact fun e => nomatch e⟩

theorem witness_WaitingCyclesChangeNothing :
    ({ low with engine := .awaitingKey 3 } : State).engine = .awaitingKey 3 := rfl

theorem witness_FaultedCyclesReportTheSameFault :
    (low.raise .stackOverflow none none).engine = .faulted ⟨.stackOverflow, 0x200#16, none, none⟩ := by decide

/-- A cycle that stays Running, one that begins to wait and one that faults; the timer at 0 and written. -/
theorem witness_TimersTickOncePerRunningCycle :
    ((place low 0xF315).About (.ldDtV 3) ∧ low.dt = 0#8 ∧
      Answers (step (place low 0xF315)) (fun t => t.engine = .running)) ∧
    ((place low 0xF30A).About (.ldVK 3) ∧
      Answers (step (place low 0xF30A)) (fun t => t.engine ≠ .running)) ∧
    (place low 0x00EE).About .ret ∧
      Answers (step (place low 0x00EE)) (fun t => t.engine ≠ .running) :=
  ⟨⟨about_place (by decide) (by decide), by decide, answers_of (by decide)⟩,
   ⟨about_place (by decide) (by decide), answers_of (by decide)⟩,
   about_place (by decide) (by decide), answers_of (by decide)⟩

theorem witness_EngineTransitionsOfACycle :
    Answers (step (place low 0x1200)) (fun _ => (place low 0x1200).engine = .running) ∧
    Answers (step { low with engine := .awaitingKey 3 }) (fun t => t.engine = .awaitingKey 3) ∧
    Answers (step (low.raise .stackOverflow none none)) (fun t => t.engine ≠ .running) :=
  ⟨answers_of (by decide), answers_of (by decide), answers_of (by decide)⟩

theorem witness_FaultsArePrecise :
    (place low 0xFF55).engine = .running ∧ Answers (step (place low 0xFF55))
      (fun t => t.engine = .faulted ⟨.memOutOfBounds, 0x200#16, some 0xFF55#16, some 0xFFF⟩) :=
  ⟨by decide, answers_of (by decide)⟩

/-- A state with a due fault and one without. -/
theorem witness_CycleTakesExactlyTheDueFault :
    (place low 0x00EE).engine = .running ∧ (place low 0x00EE).dueFault.isSome = true ∧
    (place low 0x1200).engine = .running ∧ (place low 0x1200).dueFault = none := by decide

theorem witness_CallPushesItsOwnAddress :
    low.cfg.stackCapacity ≠ some low.stack.length ∧ high.cfg.stackCapacity = some high.stack.length := by
  decide

theorem witness_ReturnGoesPastTheCall : high.stack = [] ++ [0x204#16] ∧ low.stack = [] := by decide

theorem witness_FamilyNineByItsModes :
    low.cfg.nineSkipMode = .asWritten ∧ low.cfg.nineFlag = .havoc ∧
    high.cfg.nineSkipMode = .conventional ∧ high.cfg.nineFlag = .keep := by decide

/-- The last of the eight bits. -/
theorem witness_CopyAndLogicKeepTheFlag : 7 < 8 ∧ ¬ 8 < 8 := by decide

theorem witness_AddSetsTheCarry : (14 : Reg) ≠ 15 := by decide

theorem witness_SubtractsSetTheStrictFlag : (14 : Reg) ≠ 15 := by decide

theorem witness_ShiftsByOne :
    (14 : Reg) ≠ 15 ∧ low.cfg.shlFlagMode = .asWritten ∧ high.cfg.shlFlagMode = .bit7 := by decide

/-- The last `I` from which the bytes fit, for three bytes and for sixteen. -/
theorem witness_DecimalDigitsAreStored : low.i.toNat + 3 = 4095 ∧ low.i.toNat + 3 ≤ 4095 := by decide

theorem witness_RegistersAreStored :
    ({ low with i := 0xFEF#16 } : State).i.toNat + ((15 : Reg).val + 1) ≤ 4095 ∧
    (15 : Reg).val ≤ (15 : Reg).val := by decide

theorem witness_RegistersAreLoaded :
    ({ low with i := 0xFEF#16 } : State).i.toNat + ((15 : Reg).val + 1) ≤ 4095 ∧
    (15 : Reg).val ≤ (15 : Reg).val := by decide

/-- A later state with other registers and the memory and I of the store. -/
theorem witness_StoredRegistersComeBack :
    low.i.toNat + ((2 : Reg).val + 1) ≤ 4095 ∧
    Answers (exec (.ldMemV 2) low) (fun t => ∃ u : State, u.mem = t.mem ∧ u.i = t.i ∧ u.getV 1 ≠ t.getV 1) :=
  ⟨by decide, _, rfl, State.setV _ 1 9#8, rfl, rfl, by decide⟩

/-- The first `I` from which the bytes do not fit. -/
theorem witness_FaultingStoreLeavesOldOrNewBytes :
    4095 < high.i.toNat + 3 ∧ 4095 < high.i.toNat + ((2 : Reg).val + 1) := by decide

theorem witness_FaultingLoadLeavesOldOrNewRegisters : 4095 < high.i.toNat + ((2 : Reg).val + 1) := by decide

theorem witness_StoredCodeIsFetched :
    low.i.toNat + ((2 : Reg).val + 1) ≤ 4095 ∧ (2 : Reg).val = (1 : Reg).val + 1 ∧
    (2 : Reg).val ≤ (2 : Reg).val := by decide

/-- Rows that fit, to the last byte, and no rows at all; a pixel the sprite inverts, one it touches without a
1-bit, one it does not touch; a collision and none. -/
theorem witness_DrawXorsTheSprite :
    (low.i.toNat + (3 : Fin 16).val ≤ 4095) ∧ (0 : Fin 16).val = 0 ∧
    (∃ k, SpriteSets low 0 0 3 k ∧ low.pixel k = false) ∧
    (∃ k, ¬ SpriteSets low 0 0 0 k) ∧ (∃ k, SpriteTouches low 0 0 3 k) ∧
    (∃ k, SpriteSets low 0 0 3 k ∧ (low.setPixel 0 true).pixel k = true) ∧
    ¬ ∃ k, SpriteSets low 0 0 0 k ∧ low.pixel k = true :=
  ⟨by decide, rfl, ⟨0, ⟨0, by decide, 0, by decide, by unfold SpriteCovers; decide, by decide⟩, by decide⟩,
   ⟨0, fun ⟨_, h, _⟩ => absurd h (Nat.not_lt_zero _)⟩,
   ⟨5, 0, by decide, 5, by decide, by unfold SpriteCovers; decide⟩,
   ⟨0, ⟨0, by decide, 0, by decide, by unfold SpriteCovers; decide, by decide⟩, by decide⟩,
   fun ⟨_, ⟨_, h, _⟩, _⟩ => absurd h (Nat.not_lt_zero _)⟩

/-- The second draw straight after the first; one after VF, a position register, is put back; a clear area; and
no rows at all. -/
theorem witness_DrawTwiceRestoresThePlane :
    low.i.toNat + (3 : Fin 16).val ≤ 4095 ∧ (1 : Reg) ≠ 15 ∧ (2 : Reg) ≠ 15 ∧
    Answers (exec (.drw 1 2 3) low) (fun t =>
      t.i = low.i ∧ t.mem = low.mem ∧ t.getV 1 = low.getV 1 ∧ t.getV 2 = low.getV 2) ∧
    Answers (exec (.drw 15 2 3) low) (fun t => ∃ w : State,
      w.i = low.i ∧ w.mem = low.mem ∧ w.getV 15 = low.getV 15 ∧ w.getV 2 = low.getV 2 ∧
      ∀ k, w.pixel k = t.pixel k) ∧
    (∀ k, SpriteSets low 1 2 3 k → low.pixel k = false) ∧ (0 : Fin 16).val = 0 :=
  ⟨by decide, by decide, by decide, answers_of (by decide),
   have ⟨t, h, hi, hm, hv⟩ : Answers (exec (.drw 15 2 3) low)
       (fun t => t.i = low.i ∧ t.mem = low.mem ∧ t.getV 2 = low.getV 2) := answers_of (by decide)
   ⟨t, h, t.setV 15 (low.getV 15), hi, hm, t.getV_setV_same 15 _,
    (t.getV_setV_ne _ (by decide)).trans hv, fun _ => rfl⟩,
   fun k _ => by
    have h : low.plane = Vector.replicate 2048 false := rfl
    rw [State.pixel, h]
    simp [Vector.get_eq_getElem], rfl⟩

theorem witness_FaultingDrawLeavesOldOrNewPixels :
    (3 : Fin 16).val ≠ 0 ∧ 4095 < high.i.toNat + (3 : Fin 16).val := by decide

/-- A held key, a released one and the first number that names none. -/
theorem witness_KeySkips :
    (∃ k : Key, k.val = (high.getV 1).toNat ∧ (high.setKey 7 true).key k = true) ∧
    (¬ ∃ k : Key, k.val = (low.getV 1).toNat ∧ low.key k = true) ∧
    ¬ ∃ k : Key, k.val = (low.getV 3).toNat ∧ low.key k = true := by decide

theorem witness_KeyWaitRoundTrip :
    ((place low 0xF30A).About (.ldVK 3) ∧ (place low 0xF30A).cfg.fx0aResume = .advance) ∧
    (place high 0xF30A).About (.ldVK 3) ∧ (place high 0xF30A).cfg.fx0aResume = .refetch :=
  ⟨⟨about_place (by decide) (by decide), by decide⟩, about_place (by decide) (by decide), by decide⟩

theorem witness_DeliverKeyEndsOnlyAWait :
    ({ low with engine := .awaitingKey 15 } : State).engine = .awaitingKey 15 ∧
    ∀ x, low.engine ≠ .awaitingKey x := ⟨rfl, by decide⟩

/-- The longest image that is loaded, an address on each side of it, and the shortest that is refused. -/
theorem witness_ConstructionLaysOutMemory :
    (List.replicate 3583 0#8).length ≤ 3583 ∧ 0 < (List.replicate 3583 0#8).length ∧
    80 ≤ 0x1FF ∧ 0x1FF < 4095 ∧ 0x1FF < 0x200 ∧ ([0#8] : List Byte).length ≤ 3583 ∧
    0x200 + ([0#8] : List Byte).length ≤ 4094 := by
  rw [List.length_replicate]; decide

theorem witness_ConstructionSetsTheMachine :
    (List.replicate 3583 0#8).length ≤ 3583 ∧ 3583 < (List.replicate 3584 0#8).length := by
  rw [List.length_replicate, List.length_replicate]; decide

/-- A state of the invariant that is not the reset state: a call under way in a stack that is full. -/
theorem high_inv : Inv high where
  memCanonical := by decide
  colourInStep k := by
    have h1 : high.plane = Vector.replicate 2048 false := rfl
    have h2 : high.color = Vector.replicate 2048 0#32 := rfl
    have h3 : high.cfg.offColor = 0#32 := rfl
    rw [State.colorAt, State.pixel, h1, h2, h3]
    simp [Vector.get_eq_getElem]
  pcInRange := by decide
  returnsFetchable v h := by
    have h1 : high.stack = [0x204#16] := rfl
    rw [h1, List.mem_singleton] at h
    rw [h]; decide
  waitFetchable x h := by
    have h1 : high.engine = .running := rfl
    rw [h1] at h
    exact nomatch h
  stackWithin n h := by
    have h1 : high.cfg.stackCapacity = some 1 := rfl
    have h2 : high.stack.length = 1 := rfl
    rw [h1] at h
    rw [h2, Option.some.inj h]
  recordSays f h := by
    have h1 : high.engine = .running := rfl
    rw [h1] at h
    exact nomatch h

theorem witness_StepKeepsTheInvariant : ∃ s t : State, Inv s ∧ step s = .next t :=
  ⟨high, _, high_inv, rfl⟩

/-- Each driver operation, and a construction. -/
theorem witness_DriverKeepsTheInvariant :
    (∃ s : State, Inv s ∧ (∃ t, DriverOp.cycle.apply s = .next t) ∧
      (∃ t, (DriverOp.setKey 7 true).apply s = .next t) ∧ (∃ t, (DriverOp.deliverKey 7).apply s = .next t) ∧
      (∃ t, DriverOp.disasmResetPc.apply s = .next t) ∧
      ∃ t, (DriverOp.reconstruct runner [0x12#8, 0x00#8]).apply s = .next t) ∧
    ∃ t, construct high.cfg runner [0x12#8, 0x00#8] 3 = .next t :=
  ⟨⟨high, high_inv, ⟨_, rfl⟩, ⟨_, rfl⟩, ⟨_, rfl⟩, ⟨_, rfl⟩, _, rfl⟩, _, rfl⟩

theorem witness_InstructionChangesOnlyItsParts :
    low.engine = .running ∧ Answers (exec (.ldMemV 2) low) State.Safe :=
  ⟨by decide, _, rfl, fun f h => by
    have : low.engine = .running := by decide
    exact nomatch (this.symm.trans h)⟩

theorem witness_OnlyTheDriverWritesTheLatch :
    Answers (step (place low 0x2300)) (fun t => t.stack ≠ (place low 0x2300).stack) ∧
    Answers (step (place high 0x00EE)) (fun t => t.stack ≠ (place high 0x00EE).stack) :=
  ⟨answers_of (by decide), answers_of (by decide)⟩

theorem witness_JumpToSelfOnlyCountsDown : (place low 0x1200).JumpsToSelf :=
  ⟨0x200#12, about_place (by decide) (by decide), by decide⟩

/-- Under Havoc with operands other than VF, with one register twice, and under Keep. -/
theorem witness_EqualFamilyNineStalls :
    ((place low 0x9120).StallsAtNine 1 2 ∧ (1 : Reg) ≠ 15 ∧ (2 : Reg) ≠ 15) ∧
    ((place low 0x9FF0).StallsAtNine 15 15 ∧ (15 : Reg) = 15) ∧
    ∃ s : State, s.StallsAtNine 1 15 ∧ s.cfg.nineFlag = .keep :=
  ⟨⟨⟨about_place (by decide) (by decide), by decide, by decide⟩, by decide, by decide⟩,
   ⟨⟨about_place (by decide) (by decide), by decide, by decide⟩, rfl⟩,
   place (State.setV { high with cfg := { high.cfg with nineSkipMode := .asWritten } } 15 7#8) 0x91F0,
   ⟨about_place (by decide) (by decide), by decide, by decide⟩, by decide⟩

end Sys2Proof.Tests
end

section
/-! The statements about the timers, the latch and the stack (10_state.md). They go through two facts: what one
instruction does to the timers and the stack, and what a cycle about to execute an instruction answers. -/

namespace Sys2Proof.Machine

/-! ## What one instruction does to the timers and the stack -/

/-- DT after an instruction, before the cycle's tick: Fx15 alone writes it (10_state.md R33). -/
def dtAfter (s : State) : Instr → Timer
  | .ldDtV x => s.getV x
  | _ => s.dt

/-- ST after an instruction, before the cycle's tick: Fx18 alone writes it (10_state.md R33). -/
def stAfter (s : State) : Instr → Timer
  | .ldStV x => s.getV x
  | _ => s.st

/-- The effect of an instruction on the timers and the stack, whether it faults or not. -/
structure TimersAndStack (i : Instr) (s t : State) : Prop where
  dt : t.dt = dtAfter s i
  st : t.st = stAfter s i
  stack : t.stack ≠ s.stack → i = .ret ∨ ∃ nnn, i = .call nnn

/-- Timers and stack are those of before: the shared frame of the loads, the stores and the draw. -/
structure KeepsTimersAndStack (s t : State) : Prop where
  dt : t.dt = s.dt
  st : t.st = s.st
  stack : t.stack = s.stack

/-- The frame is the effect of every instruction that writes neither timer. -/
theorem KeepsTimersAndStack.effect {i : Instr} {s t : State} (h : KeepsTimersAndStack s t)
    (hdt : dtAfter s i = s.dt) (hst : stAfter s i = s.st) : TimersAndStack i s t :=
  ⟨h.dt.trans hdt.symm, h.st.trans hst.symm, fun hne => absurd h.stack hne⟩

theorem raiseMemory_keepsTimersAndStack {addr j : Nat} {landed : Nat → State} {s t : State}
    (h : raiseMemory addr j landed s = .next t) (hl : ∀ k, KeepsTimersAndStack s (landed k)) :
    KeepsTimersAndStack s t := by
  cases h
  obtain ⟨hdt, hst, hstack⟩ := hl (min (Config.freeWritesLanded s.draws) j)
  exact ⟨hdt, hst, hstack⟩

theorem loadRegs_keepsTimersAndStack (s : State) (n : Nat) : KeepsTimersAndStack s (s.loadRegs n) := by
  obtain ⟨v, hv⟩ := s.loadRegs_only n
  rw [hv]
  exact ⟨rfl, rfl, rfl⟩

theorem drawRows_keepsTimersAndStack (px py : Nat) (s : State) (n : Nat) :
    KeepsTimersAndStack s (drawRows px py s n).1 := by
  obtain ⟨p, c, hd⟩ := drawRows_only px py s n
  rw [hd]
  exact ⟨rfl, rfl, rfl⟩

theorem storeAtI_keepsTimersAndStack {bs : List Byte} {s t : State} (h : storeAtI bs s = .next t) :
    KeepsTimersAndStack s t := by
  unfold storeAtI at h
  split at h
  · cases h
    exact ⟨rfl, rfl, rfl⟩
  · exact raiseMemory_keepsTimersAndStack h fun _ => ⟨rfl, rfl, rfl⟩

theorem execLdVMem_keepsTimersAndStack {x : Reg} {s t : State} (h : execLdVMem x s = .next t) :
    KeepsTimersAndStack s t := by
  unfold execLdVMem at h
  split at h
  · cases h
    obtain ⟨hdt, hst, hstack⟩ := loadRegs_keepsTimersAndStack s (x.val + 1)
    exact ⟨hdt, hst, hstack⟩
  · exact raiseMemory_keepsTimersAndStack h (loadRegs_keepsTimersAndStack s)

theorem execDrw_keepsTimersAndStack {x y : Reg} {n : Fin 16} {s t : State}
    (h : execDrw x y n s = .next t) : KeepsTimersAndStack s t := by
  have hd := drawRows_keepsTimersAndStack (s.getV x).toNat (s.getV y).toNat s
  unfold execDrw at h
  split at h
  · cases h
    exact ⟨(hd n.val).dt, (hd n.val).st, (hd n.val).stack⟩
  · exact raiseMemory_keepsTimersAndStack h fun k => ⟨(hd k).dt, (hd k).st, (hd k).stack⟩

theorem execSneReg_keepsTimersAndStack {x y : Reg} {s t : State} (h : execSneReg x y s = .next t) :
    KeepsTimersAndStack s t := by
  cases h
  unfold State.nineFlag
  split <;> exact ⟨rfl, rfl, rfl⟩

theorem execRet_timersAndStack {s t : State} (h : execRet s = .next t) : TimersAndStack .ret s t := by
  unfold execRet at h
  split at h <;> cases h <;> exact ⟨rfl, rfl, fun _ => .inl rfl⟩

theorem execCall_timersAndStack {nnn : Addr} {s t : State} (h : execCall nnn s = .next t) :
    TimersAndStack (.call nnn) s t := by
  unfold execCall at h
  split at h <;> cases h <;> exact ⟨rfl, rfl, fun _ => .inr ⟨nnn, rfl⟩⟩

/-- The timers and the stack after any instruction: the instructions with branches by their own lemmas, every
other one by its definition, which writes a timer for Fx15 and Fx18 only. -/
theorem exec_timersAndStack {i : Instr} {s t : State} (h : exec i s = .next t) : TimersAndStack i s t := by
  cases i with
  | ret => exact execRet_timersAndStack h
  | call nnn => exact execCall_timersAndStack h
  | sneReg x y => exact (execSneReg_keepsTimersAndStack h).effect rfl rfl
  | drw x y n => exact (execDrw_keepsTimersAndStack h).effect rfl rfl
  | ldB x => exact (storeAtI_keepsTimersAndStack h).effect rfl rfl
  | ldMemV x => exact (storeAtI_keepsTimersAndStack h).effect rfl rfl
  | ldVMem x => exact (execLdVMem_keepsTimersAndStack h).effect rfl rfl
  | _ => cases h; exact ⟨rfl, rfl, fun hne => absurd rfl hne⟩

/-! ## What a cycle answers, where it executes and where it does not -/

/-- Where an instruction is about to execute, none of the earlier ends of a cycle is taken. -/
theorem step_of_about {s : State} {i : Instr} (h : s.About i) :
    step s = finishCycle (exec i (s.latch s.wordAtPc)) := by
  obtain ⟨hrun, hpc, hdec⟩ := (s.about_iff i).mp h
  have hfetch : s.fetch = .word s.wordAtPc := by
    rw [s.fetch_eq, if_neg (by omega), if_neg (by omega)]
  simp only [step, State.beginCycle, hrun, hfetch, hdec]

/-- The cycle about to execute `i`: the state `u` that `i` leaves, and the tick if `u` is Running
(40_cycle.md R118). -/
theorem step_about_cases {s t : State} {i : Instr} (h : s.About i) (hstep : step s = .next t) :
    ∃ u, exec i (s.latch s.wordAtPc) = .next u ∧ Outcome i (s.latch s.wordAtPc) u ∧
      ((u.engine = .running ∧ t = u.tickTimers) ∨ (u.engine ≠ .running ∧ t = u)) := by
  obtain ⟨u, hexec, hout⟩ := exec_outcome i (s := s.latch s.wordAtPc) rfl
  rw [step_of_about h, hexec] at hstep
  refine ⟨u, hexec, hout, ?_⟩
  by_cases hu : u.engine = .running
  · rw [finishCycle_running hu] at hstep
    exact .inl ⟨hu, (Host.Outcome.next.inj hstep).symm⟩
  · rw [finishCycle_stopped hu] at hstep
    exact .inr ⟨hu, (Host.Outcome.next.inj hstep).symm⟩

/-- A cycle that executes nothing (40_cycle.md R113, R114, R116, R120, R121) changes the control state and
cur_word at most. -/
theorem about_or_over_of_step {s t : State} (hstep : step s = .next t) :
    (∃ i, s.About i) ∨ ∃ e w, t = { s with engine := e, curWord := w } := by
  rcases step_cases s with ⟨-, h⟩ | ⟨-, -, h⟩ | ⟨-, -, h⟩ | ⟨-, -, -, h⟩ | ⟨i, habout, -⟩
  · cases h.symm.trans hstep; exact .inr ⟨s.engine, s.curWord, rfl⟩
  · cases h.symm.trans hstep; exact .inr ⟨_, s.curWord, rfl⟩
  · cases h.symm.trans hstep; exact .inr ⟨_, s.curWord, rfl⟩
  · cases h.symm.trans hstep; exact .inr ⟨_, s.wordAtPc, rfl⟩
  · exact .inl ⟨i, habout⟩

/-- An instruction that stops a Running engine leaves both timers: it faults, or it is Fx0A. -/
theorem timers_of_stopped {i : Instr} {s t : State} (hrun : s.engine = .running)
    (hexec : exec i s = .next t) (hout : Outcome i s t) (hstop : t.engine ≠ .running) :
    t.dt = s.dt ∧ t.st = s.st := by
  obtain ⟨-, ⟨-, hafter⟩ | ⟨f, -, -, hkeeps⟩⟩ := hout
  · cases i with
    | ldVK x => exact ⟨(exec_timersAndStack hexec).dt, (exec_timersAndStack hexec).st⟩
    | _ => exact absurd (hafter.trans hrun) hstop
  · exact ⟨hkeeps.dt, hkeeps.st⟩

/-! ## The statements -/

/-- Settles O12: a Running end is a tick of the timers the instruction left, a stopped one leaves them. -/
theorem timersTickOncePerRunningCycle : Obligations.TimersTickOncePerRunningCycle := by
  intro s t i habout hstep
  obtain ⟨u, hexec, hout, ⟨hu, rfl⟩ | ⟨hu, rfl⟩⟩ := step_about_cases habout hstep
  · have hafter := exec_timersAndStack hexec
    refine ⟨fun _ => ?_, fun hstop => absurd hu hstop⟩
    rw [State.tickTimers_dt, State.tickTimers_st, timerTick_toNat, timerTick_toNat, hafter.dt, hafter.st]
    cases i <;> exact ⟨rfl, rfl⟩
  · exact ⟨fun hrun => absurd hrun hu, fun _ => timers_of_stopped (s := s.latch s.wordAtPc) habout.1 hexec hout hu⟩

/-- What a cycle keeps where it executes `i`: the timer step touches neither the latch, the parameters nor the
stack, so this is what `i` keeps. -/
theorem step_about_keeps {s t : State} {i : Instr} (h : s.About i) (hstep : step s = .next t) :
    t.keys = s.keys ∧ t.cfg = s.cfg ∧ (t.stack ≠ s.stack → i = .ret ∨ ∃ nnn, i = .call nnn) := by
  obtain ⟨u, hexec, ⟨hfixed, -⟩, ⟨-, rfl⟩ | ⟨-, rfl⟩⟩ := step_about_cases h hstep <;>
    exact ⟨hfixed.keys, hfixed.cfg, (exec_timersAndStack hexec).stack⟩

/-- Settles O57: a cycle that ends before `Execute` keeps all three, and in one that executes only RET and CALL
reach the stack. -/
theorem onlyTheDriverWritesTheLatch : Obligations.OnlyTheDriverWritesTheLatch := by
  intro s t hstep
  rcases about_or_over_of_step hstep with ⟨i, habout⟩ | ⟨e, w, rfl⟩
  · obtain ⟨hkeys, hcfg, hstack⟩ := step_about_keeps habout hstep
    refine ⟨hkeys, hcfg, fun hne => ?_⟩
    rcases hstack hne with rfl | ⟨nnn, rfl⟩
    · exact .inl habout
    · exact .inr ⟨nnn, habout⟩
  · exact ⟨rfl, rfl, fun hne => absurd rfl hne⟩

end Sys2Proof.Machine
end

section
/-! The statement about the fields of a word (30_encoding.md R88, R102): each field is a bit range of the word,
neighbouring ranges join to the range over both, and the byte swap exchanges the two bytes of a joined word. -/

namespace Sys2Proof

section FieldRanges
variable (w : Word)

/-- A bit range as a number: the bits below it divided away, the bits above it reduced away. -/
theorem extract_toNat (start len : Nat) :
    (w.extractLsb' start len).toNat = w.toNat / 2 ^ start % 2 ^ len := by
  rw [BitVec.extractLsb'_toNat, Nat.shiftRight_eq_div_pow]

/-- A range from bit 0 has no bits below it. -/
theorem extract_low_toNat (len : Nat) : (w.extractLsb' 0 len).toNat = w.toNat % 2 ^ len := by
  rw [extract_toNat, Nat.pow_zero, Nat.div_one]

@[simp] theorem decodeFields_word : (decodeFields w false).word = w := rfl

@[simp] theorem decodeFields_family_toNat : (decodeFields w false).family.toNat = w.toNat / 4096 :=
  (extract_toNat w 12 4).trans (Nat.mod_eq_of_lt (by have := w.isLt; omega))

@[simp] theorem decodeFields_x_toNat : (decodeFields w false).x.toNat = w.toNat / 256 % 16 :=
  extract_toNat w 8 4

@[simp] theorem decodeFields_y_toNat : (decodeFields w false).y.toNat = w.toNat / 16 % 16 :=
  extract_toNat w 4 4

@[simp] theorem decodeFields_n_toNat : (decodeFields w false).n.toNat = w.toNat % 16 :=
  extract_low_toNat w 4

@[simp] theorem decodeFields_kk_toNat : (decodeFields w false).kk.toNat = w.toNat % 256 :=
  extract_low_toNat w 8

@[simp] theorem decodeFields_nnn_toNat : (decodeFields w false).nnn.toNat = w.toNat % 4096 :=
  extract_low_toNat w 12

/-- The low byte is the nibbles `y : n`. -/
theorem y_append_n : (decodeFields w false).y ++ (decodeFields w false).n = (decodeFields w false).kk :=
  BitVec.extractLsb'_append_extractLsb'_eq_extractLsb' rfl

/-- The address is the nibble `x` before the low byte. -/
theorem x_append_kk : (decodeFields w false).x ++ (decodeFields w false).kk = (decodeFields w false).nnn :=
  BitVec.extractLsb'_append_extractLsb'_eq_extractLsb' rfl

/-- The word is the family before the address. -/
theorem family_append_nnn : (decodeFields w false).family ++ (decodeFields w false).nnn = w :=
  (BitVec.extractLsb'_append_extractLsb'_eq_extractLsb' rfl).trans BitVec.extractLsb'_eq_self

end FieldRanges

/-- Swapping two joined bytes joins them in the other order. -/
@[simp] theorem swapBytes_join (hi lo : Byte) : swapBytes (joinBytes lo hi) = joinBytes hi lo :=
  congrArg₂ joinBytes (extract_append_low lo hi) (extract_append_high lo hi)

/-- With the byte-order flag set, the bytes are swapped before the fields are taken. -/
theorem decodeFields_swapped (w : Word) : decodeFields w true = decodeFields (swapBytes w) false := rfl

/-- Settles O4: the ranges as numbers, the nibbles rejoined from the low end, and the swap of a joined word. -/
theorem fieldsAreTheBitsOfTheWord : Obligations.FieldsAreTheBitsOfTheWord := by
  refine ⟨fun w => ⟨decodeFields_word w, decodeFields_family_toNat w, decodeFields_x_toNat w,
    decodeFields_y_toNat w, decodeFields_n_toNat w, decodeFields_kk_toNat w, decodeFields_nnn_toNat w, ?_⟩,
    fun hi lo => ?_⟩
  · rw [y_append_n, x_append_kk, family_append_nnn]
  · rw [decodeFields_swapped, swapBytes_join]

end Sys2Proof
end

section
/-! The statement about the cycles of a waiting engine (40_cycle.md R120). A cycle of a stopped engine answers
its own state, and a run from a state that a step answers unchanged stays there. -/

namespace Sys2Proof.Machine

/-- A run takes the first step's answer and goes on from it. -/
theorem run_succ_of_step {s t : State} (h : step s = .next t) (k : Nat) :
    core.run (k + 1) s = core.run k t := by
  have hcore : core.step s = .next t := h
  simp only [Host.Core.run, hcore]

/-- A state that a step answers unchanged is the end of every run from it. -/
theorem run_of_step_self {s : State} (h : step s = .next s) (k : Nat) : core.run k s = .next s := by
  induction k with
  | zero => rfl
  | succ k ih => exact (run_succ_of_step h k).trans ih

/-- Outside Running a cycle does nothing (40_cycle.md R120, R121): every other case of a step begins Running. -/
theorem step_of_not_running {s : State} (h : s.engine ≠ .running) : step s = .next s := by
  rcases step_cases s with ⟨-, hstep⟩ | ⟨hrun, -⟩ | ⟨hrun, -⟩ | ⟨hrun, -⟩ | ⟨i, habout, -⟩
  · exact hstep
  · exact absurd hrun h
  · exact absurd hrun h
  · exact absurd hrun h
  · exact absurd habout.1 h

/-- Settles O9: AwaitingKey is not Running, so the state is one that a step answers unchanged. -/
theorem waitingCyclesChangeNothing : Obligations.WaitingCyclesChangeNothing := by
  intro s x k hwait
  have hstopped : s.engine ≠ .running := by simp [hwait]
  exact run_of_step_self (step_of_not_running hstopped) k

end Sys2Proof.Machine
end

section
/-! The statement about the skips on an immediate (41_control_flow.md R139, R140). Both instructions are the skip
pattern of 10_state.md R25 under their own condition, and both words are built by `wordXkk`. -/

namespace Sys2Proof

/-- The fields of a word of family, register and byte are the ones it was written from. -/
theorem decodeFields_wordXkk (f : BitVec 4) (x : Reg) (kk : Byte) :
    (decodeFields (wordXkk f x kk) false).family = f ∧
    (decodeFields (wordXkk f x kk) false).x = field4 x ∧
    (decodeFields (wordXkk f x kk) false).kk = kk :=
  ⟨family_wordXkk f x kk, x_wordXkk f x kk, kk_wordXkk f x kk⟩

theorem decodeWord_seImm (x : Reg) (kk : Byte) :
    decodeWord (wordXkk 0x3#4 x kk) = .ok (.seImm x kk) := by
  obtain ⟨hfamily, hx, hkk⟩ := decodeFields_wordXkk 0x3#4 x kk
  simp only [decodeWord, dispatch, hfamily, hx, hkk, nibble_field4]

theorem decodeWord_sneImm (x : Reg) (kk : Byte) :
    decodeWord (wordXkk 0x4#4 x kk) = .ok (.sneImm x kk) := by
  obtain ⟨hfamily, hx, hkk⟩ := decodeFields_wordXkk 0x4#4 x kk
  simp only [decodeWord, dispatch, hfamily, hx, hkk, nibble_field4]

namespace Machine

theorem State.advance_onlyChanges (s : State) (n : Nat) : OnlyChanges s (s.advance n) (· = .pc) := by
  intro p
  cases p with
  | pc => exact .inl rfl
  | _ => exact .inr rfl

/-- The skip pattern moves `pc` by 4 or by 2, as its condition says, and changes nothing else. -/
theorem skipIf_spec (cond : Bool) (s : State) :
    ∃ t, skipIf cond s = .next t ∧ t.pc = (if cond then s.pc + 4#16 else s.pc + 2#16) ∧
      OnlyChanges s t (· = .pc) := by
  refine ⟨_, rfl, ?_, s.advance_onlyChanges _⟩
  cases cond with
  | true => rfl
  | false => rfl

theorem exec_seImm (x : Reg) (kk : Byte) (s : State) :
    exec (.seImm x kk) s = skipIf (s.getV x == kk) s := rfl

theorem exec_sneImm (x : Reg) (kk : Byte) (s : State) :
    exec (.sneImm x kk) s = skipIf (s.getV x != kk) s := rfl

/-- Settles O20: each instruction is the skip pattern, and the condition of SNE is the negation of SE's. -/
theorem immediateSkips : Obligations.ImmediateSkips := by
  intro x kk
  refine ⟨decodeWord_seImm x kk, decodeWord_sneImm x kk, fun s => ⟨?_, ?_⟩⟩
  · rw [exec_seImm]
    simpa only [beq_iff_eq] using skipIf_spec (s.getV x == kk) s
  · rw [exec_sneImm]
    simpa only [bne_iff_ne, ne_eq, ite_not] using skipIf_spec (s.getV x != kk) s

end Machine
end Sys2Proof
end

section
/-! The statements about the immediate load and add (42_alu.md R161, R162). Both instructions write one register
and advance `pc` by 2, and both words are built by `wordXkk`. -/

namespace Sys2Proof

theorem decodeWord_ldImm (x : Reg) (kk : Byte) :
    decodeWord (wordXkk 0x6#4 x kk) = .ok (.ldImm x kk) := by
  obtain ⟨hfamily, hx, hkk⟩ := decodeFields_wordXkk 0x6#4 x kk
  simp only [decodeWord, dispatch, hfamily, hx, hkk, nibble_field4]

theorem decodeWord_addImm (x : Reg) (kk : Byte) :
    decodeWord (wordXkk 0x7#4 x kk) = .ok (.addImm x kk) := by
  obtain ⟨hfamily, hx, hkk⟩ := decodeFields_wordXkk 0x7#4 x kk
  simp only [decodeWord, dispatch, hfamily, hx, hkk, nibble_field4]

namespace Machine

/-- A register write followed by an advance changes that register and `pc`. -/
theorem State.setV_advance_onlyChanges (s : State) (x : Reg) (b : Byte) (n : Nat) :
    OnlyChanges s ((s.setV x b).advance n) (fun p => p = .reg x ∨ p = .pc) := by
  intro p
  cases p with
  | reg r =>
    by_cases h : r = x
    · exact .inl (.inl (congrArg Part.reg h))
    · exact .inr (s.getV_setV_ne b h)
  | pc => exact .inl (.inr rfl)
  | _ => exact .inr rfl

/-- What an instruction that writes one register and goes to the next instruction answers (10_state.md R25). -/
theorem setV_advance_spec (s : State) (x : Reg) (b : Byte) :
    ((s.setV x b).advance 2).getV x = b ∧ ((s.setV x b).advance 2).pc = s.pc + 2#16 ∧
      OnlyChanges s ((s.setV x b).advance 2) (fun p => p = .reg x ∨ p = .pc) :=
  ⟨s.getV_setV_same x b, rfl, s.setV_advance_onlyChanges x b 2⟩

theorem exec_ldImm (x : Reg) (kk : Byte) (s : State) :
    exec (.ldImm x kk) s = .next ((s.setV x kk).advance 2) := rfl

theorem exec_addImm (x : Reg) (kk : Byte) (s : State) :
    exec (.addImm x kk) s = .next ((s.setV x (s.getV x + kk)).advance 2) := rfl

/-- Settles O23: the instruction writes `kk` to the register and advances. -/
theorem loadImmediate : Obligations.LoadImmediate :=
  fun x kk => ⟨decodeWord_ldImm x kk, fun s => ⟨_, exec_ldImm x kk s, setV_advance_spec s x kk⟩⟩

/-- Settles O24: the instruction writes the sum of the two bytes, which wraps modulo 256, and advances. -/
theorem addImmediateWrapsWithoutFlag : Obligations.AddImmediateWrapsWithoutFlag := by
  refine fun x kk => ⟨decodeWord_addImm x kk, fun s => ?_⟩
  obtain ⟨hx, hpc, hframe⟩ := setV_advance_spec s x (s.getV x + kk)
  refine ⟨_, exec_addImm x kk s, ?_, hpc, hframe⟩
  rw [hx, BitVec.toNat_add]

end Machine
end Sys2Proof
end

section
/-! The statements about the instructions that set the address register outright (43_index_memory.md R191, R193).
Both write `I` and advance `pc` by 2: Annn writes its operand, Fx29 the address of a glyph. -/

namespace Sys2Proof

theorem decodeWord_ldI (nnn : Addr) : decodeWord (wordNnn 0xA#4 nnn) = .ok (.ldI nnn) := by
  have hfamily : (decodeFields (wordNnn 0xA#4 nnn) false).family = 0xA#4 := family_wordNnn 0xA#4 nnn
  have hnnn : (decodeFields (wordNnn 0xA#4 nnn) false).nnn = nnn := nnn_wordNnn 0xA#4 nnn
  simp only [decodeWord, dispatch, hfamily, hnnn]

/-- Family 0xF is dispatched on its low byte (30_encoding.md R95). -/
theorem dispatch_family_misc {d : Fields} (h : d.family = 0xF#4) : dispatch d = dispatchMisc d := by
  unfold dispatch
  rw [h]
  rfl

theorem decodeWord_ldF (x : Reg) : decodeWord (wordXkk 0xF#4 x 0x29#8) = .ok (.ldF x) := by
  obtain ⟨hfamily, hx, hkk⟩ := decodeFields_wordXkk 0xF#4 x 0x29#8
  rw [decodeWord, dispatch_family_misc hfamily]
  simp only [dispatchMisc, hx, hkk, nibble_field4]

namespace Machine

/-- A write of `I` followed by an advance changes `I` and `pc`. -/
theorem State.setI_advance_onlyChanges (s : State) (w : IWord) (n : Nat) :
    OnlyChanges s ((s.setI w).advance n) (fun p => p = .i ∨ p = .pc) := by
  intro p
  cases p with
  | i => exact .inl (.inl rfl)
  | pc => exact .inl (.inr rfl)
  | _ => exact .inr rfl

/-- What an instruction that writes `I` and goes to the next instruction answers (10_state.md R25). -/
theorem setI_advance_spec (s : State) (w : IWord) :
    ((s.setI w).advance 2).i = w ∧ ((s.setI w).advance 2).pc = s.pc + 2#16 ∧
      OnlyChanges s ((s.setI w).advance 2) (fun p => p = .i ∨ p = .pc) :=
  ⟨rfl, rfl, s.setI_advance_onlyChanges w 2⟩

/-- Five times a byte is at most 1275, so the address of a glyph fits in `I`. -/
theorem glyphAddr_toNat (b : Byte) : (glyphAddr b).toNat = 5 * b.toNat := by
  have haddr : glyphAddr b = BitVec.ofNat 16 (0 + 5 * b.toNat) := rfl
  have hfits : 0 + 5 * b.toNat < 2 ^ 16 := by omega
  rw [haddr, BitVec.toNat_ofNat, Nat.mod_eq_of_lt hfits, Nat.zero_add]

theorem exec_ldI (nnn : Addr) (s : State) :
    exec (.ldI nnn) s = .next ((s.setI (zextAddr nnn)).advance 2) := rfl

theorem exec_ldF (x : Reg) (s : State) :
    exec (.ldF x) s = .next ((s.setI (glyphAddr (s.getV x))).advance 2) := rfl

/-- Settles O30: the instruction writes its operand to `I`, where 12 bits fit, and advances. -/
theorem loadAddressRegister : Obligations.LoadAddressRegister := by
  refine fun nnn => ⟨decodeWord_ldI nnn, fun s => ?_⟩
  obtain ⟨hi, hpc, hframe⟩ := setI_advance_spec s (zextAddr nnn)
  refine ⟨_, exec_ldI nnn s, ?_, hpc, hframe⟩
  rw [hi, zextAddr_toNat nnn (by decide)]

/-- Settles O32: the instruction writes the glyph address of the whole byte to `I` and advances. -/
theorem glyphAddressIsFiveTimesTheByte : Obligations.GlyphAddressIsFiveTimesTheByte := by
  refine fun x => ⟨decodeWord_ldF x, fun s => ?_⟩
  obtain ⟨hi, hpc, hframe⟩ := setI_advance_spec s (glyphAddr (s.getV x))
  refine ⟨_, exec_ldF x s, ?_, hpc, hframe⟩
  rw [hi, glyphAddr_toNat]

end Machine
end Sys2Proof
end

section
/-! The decoder and the encoder are inverse to each other up to the ignored bits (30_encoding.md R92, R93, R96;
decisions D5, D9). One equivalence says it: a word decodes to `i` exactly when clearing the bits that `i` ignores
gives the word of `i`. A word is taken as its four nibbles throughout. -/

namespace Sys2Proof

/-- Every word is its four nibbles. -/
theorem exists_wordXyn (w : Word) : ∃ (f : BitVec 4) (x y : Reg) (n : BitVec 4), w = wordXyn f x y n := by
  refine ⟨(decodeFields w false).family, nibble (decodeFields w false).x, nibble (decodeFields w false).y,
    (decodeFields w false).n, ?_⟩
  rw [wordXyn, wordXkk, field4_nibble, field4_nibble, y_append_n, x_append_kk, family_append_nnn]

section Nibbles
variable (f : BitVec 4) (x y : Reg) (n : BitVec 4)

/-- The fields of a word of four nibbles. -/
theorem decodeFields_wordXyn : decodeFields (wordXyn f x y n) false =
    { word := wordXyn f x y n, family := f, x := field4 x, y := field4 y, n := n
      kk := field4 y ++ n, nnn := field4 x ++ (field4 y ++ n) } := by
  have hkk : (wordXyn f x y n).extractLsb' 0 8 = field4 y ++ n := kk_wordXkk f x _
  have hnnn : (wordXyn f x y n).extractLsb' 0 12 = field4 x ++ (field4 y ++ n) := extract_append_low f _
  simp [decodeFields, hkk, hnnn]

/-- Two words of four nibbles are equal only nibble by nibble. -/
theorem wordXyn_inj {f' : BitVec 4} {x' y' : Reg} {n' : BitVec 4} :
    wordXyn f x y n = wordXyn f' x' y' n' ↔ f = f' ∧ x = x' ∧ y = y' ∧ n = n' := by
  constructor
  · intro h
    have hd := congrArg (decodeFields · false) h
    simp only [decodeFields_wordXyn, Fields.mk.injEq] at hd
    obtain ⟨-, hf, hx, hy, hn, -⟩ := hd
    exact ⟨hf, congrArg nibble hx, congrArg nibble hy, hn⟩
  · rintro ⟨rfl, rfl, rfl, rfl⟩
    rfl

/-- Clearing bits nibble by nibble. -/
theorem wordXyn_and (m0 m1 m2 m3 : BitVec 4) :
    wordXyn f x y n &&& (m0 ++ (m1 ++ (m2 ++ m3))) =
      wordXyn (f &&& m0) (nibble (field4 x &&& m1)) (nibble (field4 y &&& m2)) (n &&& m3) :=
  BitVec.and_append.trans (congrArg (_ ++ ·) (BitVec.and_append.trans (congrArg (_ ++ ·) BitVec.and_append)))

@[simp] theorem nibble_and_keep (b : BitVec 4) : b &&& 0xF#4 = b := BitVec.and_allOnes

@[simp] theorem nibble_and_clear (b : BitVec 4) : nibble (b &&& 0x0#4) = 0 :=
  congrArg nibble BitVec.and_zero

/-- Clearing the ignored bits of family 0 (R93). -/
theorem wordXyn_clear_x : wordXyn f x y n &&& ~~~ 0x0F00#16 = wordXyn f 0 y n := by
  have hmask : ~~~ 0x0F00#16 = 0xF#4 ++ (0x0#4 ++ (0xF#4 ++ 0xF#4)) := by decide
  rw [hmask, wordXyn_and]
  simp only [nibble_and_keep, nibble_and_clear, nibble_field4]

/-- Clearing the ignored bits of the shifts (D9). -/
theorem wordXyn_clear_y : wordXyn f x y n &&& ~~~ 0x00F0#16 = wordXyn f x 0 n := by
  have hmask : ~~~ 0x00F0#16 = 0xF#4 ++ (0xF#4 ++ (0x0#4 ++ 0xF#4)) := by decide
  rw [hmask, wordXyn_and]
  simp only [nibble_and_keep, nibble_and_clear, nibble_field4]

/-- Clearing the ignored bits of families 5 and 9 (D5). -/
theorem wordXyn_clear_n : wordXyn f x y n &&& ~~~ 0x000F#16 = wordXyn f x y 0x0#4 := by
  have hmask : ~~~ 0x000F#16 = 0xF#4 ++ (0xF#4 ++ (0xF#4 ++ 0x0#4)) := by decide
  rw [hmask, wordXyn_and]
  simp only [nibble_and_keep, nibble_field4, BitVec.and_zero]

/-- Clearing no bit. -/
theorem word_clear_none (w : Word) : w &&& ~~~ 0x0000#16 = w := by
  rw [BitVec.not_zero, BitVec.and_allOnes]

end Nibbles

/-! A word that decodes is, without its ignored bits, the word of its instruction: one lemma per dispatcher. -/

section Dispatched
variable {f n : BitVec 4} {x y : Reg} {i : Instr}

theorem clear_of_dispatchZero (h : dispatchZero (decodeFields (wordXyn 0x0#4 x y n) false) = .ok i) :
    wordXyn 0x0#4 x y n &&& ~~~ ignoredBits i = encode i := by
  rw [decodeFields_wordXyn] at h
  unfold dispatchZero at h
  split at h <;> cases h <;> next hkk =>
    exact (wordXyn_clear_x _ _ _ _).trans (congrArg (wordXkk 0x0#4 0) hkk)

theorem clear_of_dispatchKey (h : dispatchKey (decodeFields (wordXyn 0xE#4 x y n) false) = .ok i) :
    wordXyn 0xE#4 x y n &&& ~~~ ignoredBits i = encode i := by
  rw [decodeFields_wordXyn] at h
  unfold dispatchKey at h
  split at h <;> cases h <;> next hkk =>
    exact (word_clear_none _).trans (congrArg (wordXkk 0xE#4 x) hkk)

theorem clear_of_dispatchMisc (h : dispatchMisc (decodeFields (wordXyn 0xF#4 x y n) false) = .ok i) :
    wordXyn 0xF#4 x y n &&& ~~~ ignoredBits i = encode i := by
  rw [decodeFields_wordXyn] at h
  unfold dispatchMisc at h
  split at h <;> cases h <;> next hkk =>
    exact (word_clear_none _).trans (congrArg (wordXkk 0xF#4 x) hkk)

theorem clear_of_dispatchAlu (h : dispatchAlu (decodeFields (wordXyn 0x8#4 x y n) false) = .ok i) :
    wordXyn 0x8#4 x y n &&& ~~~ ignoredBits i = encode i := by
  rw [decodeFields_wordXyn] at h
  unfold dispatchAlu at h
  split at h
  case h_10 => cases h
  all_goals
    rename_i hn
    obtain rfl : n = _ := hn
    cases h
  case h_7 | h_9 => exact wordXyn_clear_y _ _ _ _
  all_goals exact word_clear_none _

theorem clear_of_dispatch (h : dispatch (decodeFields (wordXyn f x y n) false) = .ok i) :
    wordXyn f x y n &&& ~~~ ignoredBits i = encode i := by
  have hfam : (decodeFields (wordXyn f x y n) false).family = f := family_wordXyn f x y n
  unfold dispatch at h
  rw [hfam] at h
  split at h
  case h_1 => exact clear_of_dispatchZero h
  case h_9 => exact clear_of_dispatchAlu h
  case h_15 => exact clear_of_dispatchKey h
  case h_16 =>
    obtain rfl : f = 0xF#4 := by simp only [imp_false] at *; bv_omega
    exact clear_of_dispatchMisc h
  all_goals
    rw [decodeFields_wordXyn] at h
    cases h
  case h_6 | h_10 => exact wordXyn_clear_n _ _ _ _
  all_goals exact word_clear_none _

end Dispatched

/-- The decoder reads back the word of every instruction, each by its dispatcher: the fields of the word are the
ones the encoder wrote. -/
theorem decodeWord_encode (i : Instr) : decodeWord (encode i) = .ok i := by
  cases i with
  | cls | ret => simp [encode, decodeWord, decodeFields, dispatch, dispatchZero]
  | ldReg _ _ | orReg _ _ | andReg _ _ | xorReg _ _ | addReg _ _ | sub _ _ | shr _ | subn _ _ | shl _ =>
    simp [encode, decodeWord, decodeFields, dispatch, dispatchAlu]
  | skp _ | sknp _ => simp [encode, decodeWord, decodeFields, dispatch, dispatchKey]
  | ldVDt _ | ldVK _ | ldDtV _ | ldStV _ | addI _ | ldF _ | ldB _ | ldMemV _ | ldVMem _ =>
    simp [encode, decodeWord, decodeFields, dispatch, dispatchMisc]
  | _ => simp [encode, decodeWord, decodeFields, dispatch]

/-- A word that is the word of an instruction up to its ignored bits decodes to it: for the six instructions
that ignore a nibble, the other nibbles are compared. -/
theorem decodeWord_of_clear {w : Word} {i : Instr} (h : w &&& ~~~ ignoredBits i = encode i) :
    decodeWord w = .ok i := by
  obtain ⟨f, x, y, n, rfl⟩ := exists_wordXyn w
  cases i with
  | cls =>
    have h : wordXyn f 0 y n = wordXyn 0x0#4 0 14 0x0#4 := (wordXyn_clear_x f x y n).symm.trans h
    obtain ⟨rfl, -, rfl, rfl⟩ := (wordXyn_inj ..).mp h
    rw [decodeWord, decodeFields_wordXyn]
    rfl
  | ret =>
    have h : wordXyn f 0 y n = wordXyn 0x0#4 0 14 0xE#4 := (wordXyn_clear_x f x y n).symm.trans h
    obtain ⟨rfl, -, rfl, rfl⟩ := (wordXyn_inj ..).mp h
    rw [decodeWord, decodeFields_wordXyn]
    rfl
  | seReg x' y' | sneReg x' y' =>
    obtain ⟨rfl, rfl, rfl, -⟩ := (wordXyn_inj ..).mp ((wordXyn_clear_n f x y n).symm.trans h)
    rw [decodeWord, decodeFields_wordXyn]
    rfl
  | shr x' | shl x' =>
    obtain ⟨rfl, rfl, -, rfl⟩ := (wordXyn_inj ..).mp ((wordXyn_clear_y f x y n).symm.trans h)
    rw [decodeWord, decodeFields_wordXyn]
    rfl
  | _ => rw [(word_clear_none _).symm.trans h, decodeWord_encode]

/-- What the decoder takes for an instruction: its word, up to the bits the instruction ignores. -/
theorem decodeWord_eq_ok_iff (w : Word) (i : Instr) :
    decodeWord w = .ok i ↔ w &&& ~~~ ignoredBits i = encode i := by
  refine ⟨fun h => ?_, decodeWord_of_clear⟩
  obtain ⟨f, x, y, n, rfl⟩ := exists_wordXyn w
  exact clear_of_dispatch h

/-- Settles O2: the two bytes join to the word of the instruction, which the decoder reads back. -/
theorem decodeOfEncodedIsTheInstruction : Obligations.DecodeOfEncodedIsTheInstruction := by
  intro i rest
  have hword : decodeWord (joinBytes (highByte (encode i)) (lowByte (encode i))) = .ok i := by
    rw [join_bytes, decodeWord_encode]
  rw [encodeBytes, List.cons_append, List.cons_append, List.nil_append, decodeBytes_join, hword]

/-- Settles O3: both parts are the equivalence, for the one word and for the other. -/
theorem decoderIgnoresOnlyTheIgnoredBits : Obligations.DecoderIgnoresOnlyTheIgnoredBits := by
  intro w w' i hw
  have hclear := (decodeWord_eq_ok_iff w i).mp hw
  exact ⟨hclear.symm, fun h => (decodeWord_eq_ok_iff w' i).mpr (h.trans hclear)⟩

end Sys2Proof
end

section
/-! The statement about the illegal space (30_encoding.md R98): the well-formed words, told by numbers. -/

namespace Sys2Proof

theorem family0Legal_iff (kk : Byte) : family0Legal kk = true ↔ kk.toNat ∈ [0xE0, 0xEE] := by
  simp [family0Legal, ← BitVec.toNat_inj]

theorem familyELegal_iff (kk : Byte) : familyELegal kk = true ↔ kk.toNat ∈ [0x9E, 0xA1] := by
  simp [familyELegal, ← BitVec.toNat_inj]

theorem familyFLegal_iff (kk : Byte) :
    familyFLegal kk = true ↔ kk.toNat ∈ [0x07, 0x0A, 0x15, 0x18, 0x1E, 0x29, 0x33, 0x55, 0x65] := by
  simp [familyFLegal, ← BitVec.toNat_inj]

theorem family8Illegal_iff (n : BitVec 4) :
    family8Legal n = false ↔ n.toNat ∈ [0x8, 0x9, 0xA, 0xB, 0xC, 0xD, 0xF] := by
  revert n; decide

/-- The illegal words of R98 by their family, low byte and low nibble. -/
theorem wellFormedWord_eq_false_iff (w : Word) : wellFormedWord w = false ↔
    (w.toNat / 4096 = 0 ∧ w.toNat % 256 ∉ [0xE0, 0xEE]) ∨
    (w.toNat / 4096 = 8 ∧ w.toNat % 16 ∈ [0x8, 0x9, 0xA, 0xB, 0xC, 0xD, 0xF]) ∨
    (w.toNat / 4096 = 0xE ∧ w.toNat % 256 ∉ [0x9E, 0xA1]) ∨
    (w.toNat / 4096 = 0xF ∧ w.toNat % 256 ∉ [0x07, 0x0A, 0x15, 0x18, 0x1E, 0x29, 0x33, 0x55, 0x65]) := by
  have hfamily : (w.extractLsb' 12 4).toNat = w.toNat / 4096 := decodeFields_family_toNat w
  have hkk : (w.extractLsb' 0 8).toNat = w.toNat % 256 := decodeFields_kk_toNat w
  have hn : (w.extractLsb' 0 4).toNat = w.toNat % 16 := decodeFields_n_toNat w
  rw [← hfamily, ← hkk, ← hn, ← family0Legal_iff, ← family8Illegal_iff, ← familyELegal_iff,
    ← familyFLegal_iff]
  unfold wellFormedWord
  generalize w.extractLsb' 12 4 = f
  split
  case h_5 h0 h8 hE hF =>
    simp only [← BitVec.toNat_inj, BitVec.toNat_ofNat, Nat.reducePow, Nat.reduceMod, imp_false] at h0 h8 hE hF
    simp [h0, h8, hE, hF]
  all_goals simp

/-- Settles O5: the decoder takes the well-formed words and refuses the others by name. -/
theorem decoderRefusesExactlyTheIllegalWords : Obligations.DecoderRefusesExactlyTheIllegalWords := by
  intro w
  refine ⟨fun hillegal => ?_, fun hlegal => ?_⟩
  · have hw := (wellFormedWord_eq_false_iff w).mpr hillegal
    rcases decodeWord_spec w with ⟨hw', -⟩ | ⟨-, hd⟩
    · exact absurd hw (by simp [hw'])
    · exact hd
  · have hw := mt (wellFormedWord_eq_false_iff w).mp hlegal
    rcases decodeWord_spec w with ⟨-, hd⟩ | ⟨hw', -⟩
    · exact hd
    · exact absurd hw' hw

end Sys2Proof
end

section
/-! The frames of the state's operations: what each changes, and how frames are put together. Every later frame is
composed of these. -/

namespace Sys2Proof.Machine

section Compose
variable {s t u : State} {P Q : Part → Prop}

theorem Part.same_trans {p : Part} (h : p.same s t) (h' : p.same t u) : p.same s u := by
  cases p <;> exact Eq.trans h' h

theorem OnlyChanges.refl (s : State) (P : Part → Prop) : OnlyChanges s s P := by
  intro p
  cases p <;> exact .inr rfl

/-- A frame may be widened, and a part that is the same after all may be left out. -/
theorem OnlyChanges.narrow (h : OnlyChanges s t P) (hPQ : ∀ p, P p → Q p ∨ p.same s t) : OnlyChanges s t Q :=
  fun p => (h p).elim (hPQ p) .inr

theorem OnlyChanges.mono (h : OnlyChanges s t P) (hPQ : ∀ p, P p → Q p) : OnlyChanges s t Q :=
  h.narrow fun p hp => .inl (hPQ p hp)

/-- Two operations in a row change what either changes. -/
theorem OnlyChanges.trans (h : OnlyChanges s t P) (h' : OnlyChanges t u Q) :
    OnlyChanges s u (fun p => P p ∨ Q p) := by
  intro p
  rcases h p with hP | hsame
  · exact .inl (.inl hP)
  · rcases h' p with hQ | hsame'
    · exact .inl (.inr hQ)
    · exact .inr (Part.same_trans hsame hsame')

end Compose

section Operations
variable (s : State)

theorem State.setV_onlyChanges (r : Reg) (b : Byte) : OnlyChanges s (s.setV r b) (· = .reg r) := by
  intro p
  cases p with
  | reg r' =>
    by_cases h : r' = r
    · exact .inl (congrArg Part.reg h)
    · exact .inr (s.getV_setV_ne b h)
  | _ => exact .inr rfl

theorem State.setPc_onlyChanges (w : PcWord) : OnlyChanges s (s.setPc w) (· = .pc) := by
  intro p
  cases p with
  | pc => exact .inl rfl
  | _ => exact .inr rfl

theorem State.setStack_onlyChanges (l : List StackEntry) : OnlyChanges s (s.setStack l) (· = .stack) := by
  intro p
  cases p with
  | stack => exact .inl rfl
  | _ => exact .inr rfl

theorem State.setEngine_onlyChanges (e : Engine) : OnlyChanges s (s.setEngine e) (· = .engine) := by
  intro p
  cases p with
  | engine => exact .inl rfl
  | _ => exact .inr rfl

theorem State.raise_onlyChanges (k : Fault) (w : Option Word) (a : Option Nat) :
    OnlyChanges s (s.raise k w a) (· = .engine) := s.setEngine_onlyChanges _

theorem State.setDt_onlyChanges (b : Timer) : OnlyChanges s (s.setDt b) (· = .dt) := by
  intro p
  cases p with
  | dt => exact .inl rfl
  | _ => exact .inr rfl

theorem State.setSt_onlyChanges (b : Timer) : OnlyChanges s (s.setSt b) (· = .st) := by
  intro p
  cases p with
  | st => exact .inl rfl
  | _ => exact .inr rfl

theorem State.draw_onlyChanges : OnlyChanges s s.draw (· = .draws) := by
  intro p
  cases p with
  | draws => exact .inl rfl
  | _ => exact .inr rfl

theorem State.latch_onlyChanges (w : Word) : OnlyChanges s (s.latch w) (· = .curWord) := by
  intro p
  cases p with
  | curWord => exact .inl rfl
  | _ => exact .inr rfl

theorem State.tickTimers_onlyChanges : OnlyChanges s s.tickTimers (fun p => p = .dt ∨ p = .st) := by
  intro p
  cases p with
  | dt => exact .inl (.inl rfl)
  | st => exact .inl (.inr rfl)
  | _ => exact .inr rfl

theorem State.clearDisplay_onlyChanges :
    OnlyChanges s s.clearDisplay (fun p => ∃ k, p = .pixel k ∨ p = .colour k) := by
  intro p
  cases p with
  | pixel k => exact .inl ⟨k, .inl rfl⟩
  | colour k => exact .inl ⟨k, .inr rfl⟩
  | _ => exact .inr rfl

/-- Bytes written from `a` on change no byte outside their range. -/
theorem State.memWriteBytes_onlyChanges (a : Nat) (bs : List Byte) :
    OnlyChanges s (s.memWriteBytes a bs) (fun p => ∃ c, p = .byte c ∧ a ≤ c ∧ c < a + bs.length) := by
  intro p
  cases p with
  | byte c =>
    by_cases h : a ≤ c ∧ c < a + bs.length
    · exact .inl ⟨c, rfl, h⟩
    · exact .inr (Mem.read_writeBytes_out bs s.mem a c (by omega))
  | _ => exact .inr rfl

theorem State.setKey_onlyChanges (k : Key) (held : Bool) : OnlyChanges s (s.setKey k held) (· = .key k) := by
  intro p
  cases p with
  | key k' =>
    by_cases h : k' = k
    · exact .inl (congrArg Part.key h)
    · exact .inr ((s.key_setKey k k' held).trans (if_neg h))
  | _ => exact .inr rfl

end Operations

end Sys2Proof.Machine
end

section
/-! The statements about control flow (41_control_flow.md). -/

namespace Sys2Proof.Machine

theorem exec_jp (nnn : Addr) (s : State) : exec (.jp nnn) s = .next (s.setPc (zextAddr nnn)) := rfl

theorem exec_jpV0 (nnn : Addr) (s : State) :
    exec (.jpV0 nnn) s = .next (s.setPc (zextByte (s.getV 0) + zextAddr nnn)) := rfl

theorem exec_seReg (x y : Reg) (s : State) : exec (.seReg x y) s = skipIf (s.getV x == s.getV y) s := rfl

/-- CALL with room on the stack (10_state.md R30). -/
theorem exec_call_push (nnn : Addr) {s : State} (h : s.cfg.stackCapacity ≠ some s.stack.length) :
    exec (.call nnn) s = .next ((s.setStack (s.stack ++ [s.pc])).setPc (zextAddr nnn)) :=
  if_neg (by simpa [State.stackFull] using h)

/-- CALL on a full stack (decision D3). -/
theorem exec_call_full (nnn : Addr) {s : State} (h : s.cfg.stackCapacity = some s.stack.length) :
    exec (.call nnn) s = .next (s.raise .stackOverflow (some s.curWord) none) :=
  if_pos (by simpa [State.stackFull] using h)

/-- RET pops the last entry (10_state.md R31). -/
theorem exec_ret_pop {s : State} {rest : List StackEntry} {v : StackEntry} (h : s.stack = rest ++ [v]) :
    exec .ret s = .next ((s.setStack rest).setPc (v + 2#16)) := by
  have hlast : s.stack.getLast? = some v := by rw [h, List.getLast?_concat]
  have hrest : s.stack.dropLast = rest := by rw [h, List.dropLast_concat]
  simp only [exec, execRet, hlast, hrest]

/-- RET on an empty stack (decision D2). -/
theorem exec_ret_empty {s : State} (h : s.stack = []) :
    exec .ret s = .next (s.raise .stackUnderflow (some s.curWord) none) := by
  have hlast : s.stack.getLast? = none := by rw [h, List.getLast?_nil]
  simp only [exec, execRet, hlast, raiseInstr]

/-- The sum of a byte and a 12-bit address fits in `pc`, so nothing is cut off (R143). -/
theorem zextByte_add_zextAddr_toNat (b : Byte) (nnn : Addr) :
    (zextByte b + zextAddr nnn : PcWord).toNat = b.toNat + nnn.toNat := by
  rw [BitVec.toNat_add, zextByte_toNat b (by decide), zextAddr_toNat nnn (by decide)]
  exact Nat.mod_eq_of_lt (show _ < 2 ^ 16 by omega)

/-- Settles O16: the address is extended without loss. -/
theorem jumpGoesToItsTarget : Obligations.JumpGoesToItsTarget :=
  fun nnn s => ⟨_, exec_jp nnn s, zextAddr_toNat nnn (by decide), s.setPc_onlyChanges _⟩

/-- Settles O17: the sum is exact. -/
theorem jumpWithOffsetGoesToTheSum : Obligations.JumpWithOffsetGoesToTheSum :=
  fun nnn s => ⟨_, exec_jpV0 nnn s, zextByte_add_zextAddr_toNat _ nnn, s.setPc_onlyChanges _⟩

/-- A write of the stack and of `pc`, as CALL and RET do. -/
theorem setStack_setPc_onlyChanges (s : State) (l : List StackEntry) (w : PcWord) :
    OnlyChanges s ((s.setStack l).setPc w) (fun p => p = .pc ∨ p = .stack) :=
  ((s.setStack_onlyChanges l).trans (State.setPc_onlyChanges _ w)).mono fun _ => Or.symm

/-- Settles O18: the push where the stack has room, the fault where it is full. -/
theorem callPushesItsOwnAddress : Obligations.CallPushesItsOwnAddress := by
  refine fun nnn s => ⟨fun hroom => ?_, fun hfull => ?_⟩
  · exact ⟨_, exec_call_push nnn hroom, rfl, zextAddr_toNat nnn (by decide), setStack_setPc_onlyChanges s _ _⟩
  · exact ⟨_, exec_call_full nnn hfull, rfl, s.raise_onlyChanges _ _ _⟩

/-- Settles O19: the pop of the last entry, the fault where there is none. -/
theorem returnGoesPastTheCall : Obligations.ReturnGoesPastTheCall := by
  refine ⟨fun s rest v hstack => ?_, fun s hempty => ?_⟩
  · exact ⟨_, exec_ret_pop hstack, rfl, rfl, setStack_setPc_onlyChanges s _ _⟩
  · exact ⟨_, exec_ret_empty hempty, rfl, s.raise_onlyChanges _ _ _⟩

/-- Settles O21: equal register numbers hold equal values, so the skip pattern's condition is the whole one. -/
theorem registerSkip : Obligations.RegisterSkip := by
  intro x y s
  have hcond : (x = y ∨ s.getV x = s.getV y) ↔ s.getV x = s.getV y :=
    or_iff_right_of_imp (congrArg s.getV)
  rw [exec_seReg]
  simpa only [hcond, beq_iff_eq] using skipIf_spec (s.getV x == s.getV y) s

/-! ## SNE Vx, Vy -/

/-- SNE Vx, Vy where VF is kept: the advance alone. -/
theorem exec_sneReg_keep (x y : Reg) {s : State} (h : s.cfg.nineFlag = .keep) :
    exec (.sneReg x y) s = .next (s.advance (nineAdvance s.cfg.nineSkipMode (s.getV x != s.getV y))) := by
  simp only [exec, execSneReg, State.nineFlag, State.advance_cfg, h]

/-- SNE Vx, Vy under Havoc: the advance, then a free value in VF (log 10). -/
theorem exec_sneReg_havoc (x y : Reg) {s : State} (h : s.cfg.nineFlag = .havoc) :
    exec (.sneReg x y) s = .next (((s.advance (nineAdvance s.cfg.nineSkipMode (s.getV x != s.getV y))).setV
      15 (Config.freeDraw8 s.draws)).draw) := by
  simp only [exec, execSneReg, State.nineFlag, State.advance_cfg, h]
  rfl

/-- Under AsWritten equal operands do not move `pc` (decision D7). -/
theorem pc_nineAdvance_asWritten (s : State) (a b : Byte) :
    (s.advance (nineAdvance .asWritten (a != b))).pc = if a = b then s.pc else s.pc + 2#16 := by
  by_cases h : a = b <;> simp [nineAdvance, h]

theorem pc_nineAdvance_conventional (s : State) (a b : Byte) :
    (s.advance (nineAdvance .conventional (a != b))).pc = if a = b then s.pc + 2#16 else s.pc + 4#16 := by
  by_cases h : a = b <;> simp [nineAdvance, h]

/-- The frame under Havoc. -/
theorem advance_setV_draw_onlyChanges (s : State) (n : Nat) (r : Reg) (b : Byte) :
    OnlyChanges s ((s.advance n).setV r b).draw (fun p => p = .pc ∨ p = .reg r ∨ p = .draws) :=
  (((s.advance_onlyChanges n).trans (State.setV_onlyChanges _ r b)).trans (State.draw_onlyChanges _)).mono
    fun _ => or_assoc.mp

/-- Settles O22: the flag mode decides the state, the skip mode how far its `pc` has moved. -/
theorem familyNineByItsModes : Obligations.FamilyNineByItsModes := by
  intro x y s
  have hwritten : s.cfg.nineSkipMode = .asWritten → _ :=
    fun h => h ▸ pc_nineAdvance_asWritten s (s.getV x) (s.getV y)
  have hconventional : s.cfg.nineSkipMode = .conventional → _ :=
    fun h => h ▸ pc_nineAdvance_conventional s (s.getV x) (s.getV y)
  cases hflag : s.cfg.nineFlag with
  | keep =>
    exact ⟨_, exec_sneReg_keep x y hflag, hwritten, hconventional, nofun, fun _ => s.advance_onlyChanges _⟩
  | havoc =>
    refine ⟨_, exec_sneReg_havoc x y hflag, hwritten, hconventional, fun _ => ⟨?_, rfl, ?_⟩, nofun⟩
    · exact State.getV_setV_same _ 15 _
    · exact advance_setV_draw_onlyChanges s _ 15 _

end Sys2Proof.Machine
end

section
/-! The statements about the 8-bit ALU (42_alu.md). The instructions without a flag write one register; those with one
write the result first and the flag last. -/

namespace Sys2Proof.Machine

/-! ## Without a flag -/

theorem exec_ldReg (x y : Reg) (s : State) :
    exec (.ldReg x y) s = .next ((s.setV x (s.getV y)).advance 2) := rfl

theorem exec_orReg (x y : Reg) (s : State) :
    exec (.orReg x y) s = .next ((s.setV x (s.getV x ||| s.getV y)).advance 2) := rfl

theorem exec_andReg (x y : Reg) (s : State) :
    exec (.andReg x y) s = .next ((s.setV x (s.getV x &&& s.getV y)).advance 2) := rfl

theorem exec_xorReg (x y : Reg) (s : State) :
    exec (.xorReg x y) s = .next ((s.setV x (s.getV x ^^^ s.getV y)).advance 2) := rfl

/-- Settles O25: each writes one byte, whose bits are the operation on the operands' bits. -/
theorem copyAndLogicKeepTheFlag : Obligations.CopyAndLogicKeepTheFlag := by
  refine fun x y s => ⟨⟨_, exec_ldReg x y s, setV_advance_spec s x _⟩, ?_, ?_, ?_⟩
  · obtain ⟨hx, hpc, hframe⟩ := setV_advance_spec s x (s.getV x ||| s.getV y)
    exact ⟨_, exec_orReg x y s, hpc, fun k _ => by rw [hx, BitVec.getLsbD_or], hframe⟩
  · obtain ⟨hx, hpc, hframe⟩ := setV_advance_spec s x (s.getV x &&& s.getV y)
    exact ⟨_, exec_andReg x y s, hpc, fun k _ => by rw [hx, BitVec.getLsbD_and], hframe⟩
  · obtain ⟨hx, hpc, hframe⟩ := setV_advance_spec s x (s.getV x ^^^ s.getV y)
    exact ⟨_, exec_xorReg x y s, hpc, fun k _ => by rw [hx, BitVec.getLsbD_xor], hframe⟩

/-! ## With a flag, written last (decision D10) -/

theorem State.writeResultFlag_onlyChanges (s : State) (x : Reg) (b : Byte) (f : Bool) :
    OnlyChanges s (s.writeResultFlag x b f) (fun p => p = .reg x ∨ p = .reg 15 ∨ p = .pc) :=
  (((s.setV_onlyChanges x b).trans (State.setV_onlyChanges _ 15 (flagByte f))).trans
    (State.advance_onlyChanges _ 2)).mono fun _ => or_assoc.mp

/-- What an instruction with a flag answers: the result where `x` is not VF, the flag in VF for every `x`. -/
theorem writeResultFlag_spec (s : State) (x : Reg) (b : Byte) (f : Bool) :
    (x ≠ 15 → (s.writeResultFlag x b f).getV x = b) ∧ (s.writeResultFlag x b f).getV 15 = flagByte f ∧
      (s.writeResultFlag x b f).pc = s.pc + 2#16 ∧
      OnlyChanges s (s.writeResultFlag x b f) (fun p => p = .reg x ∨ p = .reg 15 ∨ p = .pc) := by
  refine ⟨fun hx => ?_, ?_, rfl, s.writeResultFlag_onlyChanges x b f⟩
  · rw [State.getV_writeResultFlag, if_neg hx, if_pos rfl]
  · rw [State.getV_writeResultFlag, if_pos rfl]

/-- A flag as a number is 1 or 0. -/
theorem flagByte_toNat (b : Bool) : (flagByte b).toNat = if b = true then 1 else 0 := by
  cases b <;> rfl

theorem exec_addReg (x y : Reg) (s : State) : exec (.addReg x y) s =
    .next (s.writeResultFlag x (s.getV x + s.getV y) (carryFlag (s.getV x) (s.getV y))) := rfl

theorem exec_sub (x y : Reg) (s : State) : exec (.sub x y) s =
    .next (s.writeResultFlag x (s.getV x - s.getV y) (greaterFlag (s.getV x) (s.getV y))) := rfl

theorem exec_subn (x y : Reg) (s : State) : exec (.subn x y) s =
    .next (s.writeResultFlag x (s.getV y - s.getV x) (greaterFlag (s.getV y) (s.getV x))) := rfl

theorem exec_shr (x : Reg) (s : State) :
    exec (.shr x) s = .next (s.writeResultFlag x (s.getV x >>> 1) (shrFlag (s.getV x))) := rfl

theorem exec_shl (x : Reg) (s : State) : exec (.shl x) s =
    .next (s.writeResultFlag x (s.getV x <<< 1) (shlFlag s.cfg.shlFlagMode (s.getV x))) := rfl

theorem carryFlag_toNat (a b : Byte) :
    (flagByte (carryFlag a b)).toNat = if 0xFF < a.toNat + b.toNat then 1 else 0 := by
  simp only [flagByte_toNat, carryFlag, decide_eq_true_eq]

theorem greaterFlag_toNat (a b : Byte) :
    (flagByte (greaterFlag a b)).toNat = if b.toNat < a.toNat then 1 else 0 := by
  simp only [flagByte_toNat, greaterFlag, decide_eq_true_eq]

/-- The difference modulo 256, as the statements write it. -/
theorem byte_sub_toNat (a b : Byte) : (a - b).toNat = (a.toNat + 256 - b.toNat) % 256 := by
  rw [BitVec.toNat_sub]
  omega

/-- The bit shifted out to the right is the remainder by 2. -/
theorem shrFlag_toNat (a : Byte) : (flagByte (shrFlag a)).toNat = a.toNat % 2 := by
  rw [flagByte_toNat, shrFlag, BitVec.getLsbD, Nat.testBit_zero]
  rcases Nat.mod_two_eq_zero_or_one a.toNat with h | h <;> simp [h]

/-- The bit shifted out to the left is the quotient by 128. -/
theorem bit7_toNat (a : Byte) : (flagByte (a.getLsbD 7)).toNat = a.toNat / 128 := by
  have hlt := a.isLt
  rw [flagByte_toNat, BitVec.getLsbD, Nat.testBit_eq_decide_div_mod_eq]
  rcases Nat.lt_or_ge a.toNat 128 with h | h
  · simp [Nat.div_eq_of_lt h]
  · have h1 : a.toNat / 128 = 1 := by omega
    simp [h1]

/-- A byte has no bit under the source's 16-bit mask (decision D8). -/
theorem shlFlag_asWritten (a : Byte) : shlFlag .asWritten a = false := by
  have hmask : a.setWidth 16 &&& shlMask = 0#16 := by revert a; decide
  simp [shlFlag, hmask]

/-- Settles O26: the sum wraps modulo 256 and the flag is the carry. -/
theorem addSetsTheCarry : Obligations.AddSetsTheCarry := by
  intro x y s
  obtain ⟨hx, hflag, hpc, hframe⟩ :=
    writeResultFlag_spec s x (s.getV x + s.getV y) (carryFlag (s.getV x) (s.getV y))
  refine ⟨_, exec_addReg x y s, fun h => ?_, ?_, hpc, hframe⟩
  · rw [hx h, BitVec.toNat_add]
  · rw [hflag, carryFlag_toNat]

/-- A subtraction of either direction. -/
theorem subtract_spec (s : State) (x : Reg) (a b : Byte) :
    (x ≠ 15 → ((s.writeResultFlag x (a - b) (greaterFlag a b)).getV x).toNat = (a.toNat + 256 - b.toNat) % 256) ∧
    ((s.writeResultFlag x (a - b) (greaterFlag a b)).getV 15).toNat = (if b.toNat < a.toNat then 1 else 0) ∧
    (s.writeResultFlag x (a - b) (greaterFlag a b)).pc = s.pc + 2#16 ∧
    OnlyChanges s (s.writeResultFlag x (a - b) (greaterFlag a b))
      (fun p => p = .reg x ∨ p = .reg 15 ∨ p = .pc) := by
  obtain ⟨hx, hflag, hpc, hframe⟩ := writeResultFlag_spec s x (a - b) (greaterFlag a b)
  exact ⟨fun h => (congrArg BitVec.toNat (hx h)).trans (byte_sub_toNat a b),
    (congrArg BitVec.toNat hflag).trans (greaterFlag_toNat a b), hpc, hframe⟩

/-- Settles O27: the two are one subtraction, with the operands exchanged. -/
theorem subtractsSetTheStrictFlag : Obligations.SubtractsSetTheStrictFlag :=
  fun x y s => ⟨⟨_, exec_sub x y s, subtract_spec s x _ _⟩, ⟨_, exec_subn x y s, subtract_spec s x _ _⟩⟩

/-- Settles O28: the results as numbers, and the flag by its mode. -/
theorem shiftsByOne : Obligations.ShiftsByOne := by
  refine fun x s => ⟨?_, ?_⟩
  · obtain ⟨hx, hflag, hpc, hframe⟩ := writeResultFlag_spec s x (s.getV x >>> 1) (shrFlag (s.getV x))
    refine ⟨_, exec_shr x s, fun h => ?_, ?_, hpc, hframe⟩
    · rw [hx h, BitVec.toNat_ushiftRight, Nat.shiftRight_one]
    · rw [hflag, shrFlag_toNat]
  · obtain ⟨hx, hflag, hpc, hframe⟩ :=
      writeResultFlag_spec s x (s.getV x <<< 1) (shlFlag s.cfg.shlFlagMode (s.getV x))
    refine ⟨_, exec_shl x s, fun h => ?_, fun hmode => ?_, fun hmode => ?_, hpc, hframe⟩
    · rw [hx h, BitVec.toNat_shiftLeft, Nat.shiftLeft_eq, pow_one, Nat.mul_comm]
    · rw [hflag, hmode, shlFlag_asWritten]
      rfl
    · rw [hflag, hmode]
      exact bit7_toNat _

theorem exec_rnd (x : Reg) (kk : Byte) (s : State) :
    exec (.rnd x kk) s = .next (((s.setV x (s.draw8 &&& kk)).draw).advance 2) := rfl

theorem setV_draw_advance_onlyChanges (s : State) (x : Reg) (b : Byte) (n : Nat) :
    OnlyChanges s ((s.setV x b).draw.advance n) (fun p => p = .reg x ∨ p = .pc ∨ p = .draws) :=
  (((s.setV_onlyChanges x b).trans (State.draw_onlyChanges _)).trans (State.advance_onlyChanges _ n)).mono
    fun _ h => or_assoc.mp h |>.imp_right Or.symm

/-- Settles O29: a byte under a mask is at most the mask. -/
theorem randomByteUnderTheMask : Obligations.RandomByteUnderTheMask := by
  intro x kk s
  have hx : (((s.setV x (s.draw8 &&& kk)).draw).advance 2).getV x = s.draw8 &&& kk := s.getV_setV_same x _
  refine ⟨_, exec_rnd x kk s, hx, ?_, rfl, rfl, setV_draw_advance_onlyChanges s x _ 2⟩
  rw [hx, BitVec.toNat_and]
  exact Nat.and_le_right

end Sys2Proof.Machine
end

section
/-! The statements about the address register, the loads and the stores (43_index_memory.md). The two stores are one
operation, `storeAtI`, on different bytes; where an access is past memory, an open number of the earlier ones is
done (log 11), and what is claimed of the state holds for each such number. -/

namespace Sys2Proof.Machine

theorem exec_addI (x : Reg) (s : State) :
    exec (.addI x) s = .next ((s.setI (s.i + zextByte (s.getV x))).advance 2) := rfl

/-- Settles O31: the byte is extended without loss and the sum wraps modulo 65536. -/
theorem addToAddressRegisterWraps : Obligations.AddToAddressRegisterWraps := by
  intro x s
  obtain ⟨hi, hpc, hframe⟩ := setI_advance_spec s (s.i + zextByte (s.getV x))
  refine ⟨_, exec_addI x s, ?_, hpc, hframe⟩
  rw [hi, BitVec.toNat_add, zextByte_toNat _ (by decide)]
  rfl

/-! ## A memory fault -/

/-- A memory fault leaves the effects of the first `k` accesses, for some `k` up to the number made. -/
theorem raiseMemory_answers (addr j : Nat) (landed : Nat → State) (s : State) :
    ∃ k ≤ j, raiseMemory addr j landed s =
      .next ((landed k).draw.raise .memOutOfBounds (some s.curWord) (some addr)) :=
  ⟨_, Nat.min_le_right _ _, rfl⟩

/-- The fault itself adds the control state and the counter of free values to what the accesses change. -/
theorem OnlyChanges.fault {s t : State} {P : Part → Prop} (h : OnlyChanges s t P) (k : Fault) (w : Option Word)
    (a : Option Nat) : OnlyChanges s (t.draw.raise k w a) (fun p => p = .engine ∨ p = .draws ∨ P p) :=
  ((h.trans t.draw_onlyChanges).trans (State.raise_onlyChanges _ k w a)).mono fun _ => by
    rintro ((hP | hdraws) | hengine)
    · exact .inr (.inr hP)
    · exact .inr (.inl hdraws)
    · exact .inl hengine

/-- The first missing address of a run of accesses that is past memory. -/
theorem firstMissing_addr (s : State) : s.base + (4095 - s.base) = max s.i.toNat 4095 := by
  unfold State.base
  omega

/-! ## Stores -/

theorem exec_ldB (x : Reg) (s : State) : exec (.ldB x) s = storeAtI (decimalDigits (s.getV x)) s := rfl

theorem exec_ldMemV (x : Reg) (s : State) : exec (.ldMemV x) s = storeAtI (s.regsUpTo x) s := rfl

theorem memWriteBytes_advance_onlyChanges (s : State) (a : Nat) (bs : List Byte) (n : Nat) :
    OnlyChanges s ((s.memWriteBytes a bs).advance n)
      (fun p => p = .pc ∨ ∃ c, p = .byte c ∧ a ≤ c ∧ c < a + bs.length) :=
  ((s.memWriteBytes_onlyChanges a bs).trans (State.advance_onlyChanges _ n)).mono fun _ => Or.symm

/-- A store that fits: the bytes are read back from `I` on, and `pc` moves by 2. -/
theorem storeAtI_spec {bs : List Byte} {s : State} (h : s.i.toNat + bs.length ≤ 4095) :
    ∃ t, storeAtI bs s = .next t ∧ (∀ (j : Nat) (hj : j < bs.length), t.mem.read (s.i.toNat + j) = bs[j]) ∧
      t.i = s.i ∧ t.pc = s.pc + 2#16 ∧
      OnlyChanges s t (fun p => p = .pc ∨ ∃ a, p = .byte a ∧ s.i.toNat ≤ a ∧ a < s.i.toNat + bs.length) :=
  ⟨_, storeAtI_fits (.inr h), Mem.read_writeBytes_in bs s.mem s.base, rfl, rfl,
    memWriteBytes_advance_onlyChanges s s.base bs 2⟩

/-- A byte after the first `k` of the bytes are written: the old one, or one of those `k`. -/
theorem read_writeBytes_take (m : Mem) (a k c : Nat) (bs : List Byte) :
    (m.writeBytes a (bs.take k)).read c = m.read c ∨
      ∃ (j : Nat) (hj : j < bs.length), j < k ∧ c = a + j ∧ (m.writeBytes a (bs.take k)).read c = bs[j] := by
  rw [Mem.read_writeBytes]
  split
  · next h =>
    obtain ⟨hle, hlt⟩ := h
    obtain ⟨hk, hlen⟩ := lt_min_iff.mp (List.length_take ▸ hlt)
    exact .inr ⟨c - a, hlen, hk, by omega, List.getElem_take⟩
  · exact .inl rfl

/-- A store past memory: the fault at the first missing address, each byte the old one or, where its address
exists, the one stored there. -/
theorem storeAtI_past_spec {bs : List Byte} {s : State} (h : 4095 < s.i.toNat + bs.length) (hne : bs.length ≠ 0) :
    ∃ t, storeAtI bs s = .next t ∧
      t.engine = .faulted ⟨.memOutOfBounds, s.pc, some s.curWord, some (max s.i.toNat 4095)⟩ ∧
      (∀ a, t.mem.read a = s.mem.read a ∨
        ∃ (j : Nat) (hj : j < bs.length), a = s.i.toNat + j ∧ a < 4095 ∧ t.mem.read a = bs[j]) ∧
      OnlyChanges s t (fun p => p = .engine ∨ p = .draws ∨ ∃ a, p = .byte a) := by
  have hpast : ¬ (bs.length = 0 ∨ s.base + bs.length ≤ 4095) := not_or.mpr ⟨hne, Nat.not_le.mpr h⟩
  obtain ⟨k, hk, hraise⟩ := raiseMemory_answers (s.base + (4095 - s.base)) (4095 - s.base)
    (fun k => s.memWriteBytes s.base (bs.take k)) s
  refine ⟨_, (storeAtI_past hpast).trans hraise, ?_, fun a => ?_, ?_⟩
  · rw [firstMissing_addr]
    rfl
  · refine (read_writeBytes_take s.mem s.base k a bs).imp_right ?_
    rintro ⟨j, hj, hjk, ha, hread⟩
    exact ⟨j, hj, ha, by omega, hread⟩
  · exact ((s.memWriteBytes_onlyChanges s.base (bs.take k)).mono fun p ⟨a, hp, _⟩ => ⟨a, hp⟩).fault _ _ _

/-- The digits of a byte as numbers. -/
theorem decimalDigits_toNat (b : Byte) :
    ((decimalDigits b)[0].toNat = b.toNat / 100) ∧ ((decimalDigits b)[1].toNat = b.toNat / 10 % 10) ∧
      ((decimalDigits b)[2].toNat = b.toNat % 10) := by
  have hb := b.isLt
  refine ⟨Nat.mod_eq_of_lt ?_, Nat.mod_eq_of_lt ?_, Nat.mod_eq_of_lt ?_⟩ <;> omega

/-- Settles O33: the three bytes stored are the digits. -/
theorem decimalDigitsAreStored : Obligations.DecimalDigitsAreStored := by
  intro x s hfits
  obtain ⟨t, ht, hread, -, hpc, hframe⟩ := storeAtI_spec (bs := decimalDigits (s.getV x)) hfits
  obtain ⟨h0, h1, h2⟩ := decimalDigits_toNat (s.getV x)
  exact ⟨t, (exec_ldB x s).trans ht, (congrArg BitVec.toNat (hread 0 (by simp))).trans h0,
    (congrArg BitVec.toNat (hread 1 (by simp))).trans h1, (congrArg BitVec.toNat (hread 2 (by simp))).trans h2,
    hpc, hframe⟩

/-- The stored registers as the list of bytes that `storeAtI` takes. -/
theorem getElem_regsUpTo (s : State) (x j : Reg) (h : j.val ≤ x.val) :
    (s.regsUpTo x)[j.val]'(by rw [State.regsUpTo_length]; omega) = s.getV j :=
  s.regsUpTo_getElem x j.val _

/-- Fx55 with every address in memory (43_index_memory.md R195, decision D12). -/
theorem exec_ldMemV_spec {x : Reg} {s : State} (h : s.i.toNat + (x.val + 1) ≤ 4095) :
    ∃ t, exec (.ldMemV x) s = .next t ∧
      (∀ j : Reg, j.val ≤ x.val → t.mem.read (s.i.toNat + j.val) = s.getV j) ∧
      t.i = s.i ∧ t.pc = s.pc + 2#16 ∧
      OnlyChanges s t (fun p => p = .pc ∨
        ∃ a, p = .byte a ∧ s.i.toNat ≤ a ∧ a < s.i.toNat + (x.val + 1)) := by
  have hlen := s.regsUpTo_length x
  obtain ⟨t, ht, hread, hi, hpc, hframe⟩ := storeAtI_spec (bs := s.regsUpTo x) (hlen ▸ h)
  exact ⟨t, (exec_ldMemV x s).trans ht, fun j hj => (hread j.val _).trans (getElem_regsUpTo s x j hj), hi, hpc,
    hlen ▸ hframe⟩

/-- Settles O34: what the store of V0 to V[x] answers. -/
theorem registersAreStored : Obligations.RegistersAreStored := by
  intro x s hfits
  obtain ⟨t, ht, hread, -, hpc, hframe⟩ := exec_ldMemV_spec hfits
  exact ⟨t, ht, hread, hpc, hframe⟩

/-- Settles O37: for Fx33 the last digit, for Fx55 the last register is never stored before the fault, since its
address does not exist. -/
theorem faultingStoreLeavesOldOrNewBytes : Obligations.FaultingStoreLeavesOldOrNewBytes := by
  refine fun x s => ⟨fun hpast => ?_, fun hpast => ?_⟩
  · obtain ⟨t, ht, hengine, hread, hframe⟩ :=
      storeAtI_past_spec (bs := decimalDigits (s.getV x)) hpast (by simp)
    obtain ⟨h0, h1, -⟩ := decimalDigits_toNat (s.getV x)
    refine ⟨t, ht, hengine, fun a => (hread a).imp_right ?_, hframe⟩
    rintro ⟨j, hj, ha, hlt, hbyte⟩
    match j, hj with
    | 0, _ => exact .inl ⟨ha, hlt, hbyte ▸ h0⟩
    | 1, _ => exact .inr ⟨ha, hlt, hbyte ▸ h1⟩
    | 2, _ => omega
  · have hlen := s.regsUpTo_length x
    obtain ⟨t, ht, hengine, hread, hframe⟩ :=
      storeAtI_past_spec (bs := s.regsUpTo x) (hlen ▸ hpast) (hlen ▸ Nat.succ_ne_zero _)
    refine ⟨t, ht, hengine, fun a => (hread a).imp_right ?_, hframe⟩
    rintro ⟨j, hj, ha, hlt, hbyte⟩
    have hjx : j < x.val := by omega
    have hx := reg_lt x
    exact ⟨⟨j, by omega⟩, hjx, ha, hlt, hbyte.trans (getElem_regsUpTo s x ⟨j, by omega⟩ hjx.le)⟩

/-! ## Loads -/

theorem exec_ldVMem_fits {x : Reg} {s : State} (h : s.i.toNat + (x.val + 1) ≤ 4095) :
    exec (.ldVMem x) s = .next ((s.loadRegs (x.val + 1)).advance 2) := by
  have hfits : x.val + 1 = 0 ∨ s.base + (x.val + 1) ≤ 4095 := .inr h
  simp only [exec, execLdVMem, firstMissing_eq, if_pos hfits]

theorem exec_ldVMem_past {x : Reg} {s : State} (h : 4095 < s.i.toNat + (x.val + 1)) :
    exec (.ldVMem x) s = raiseMemory (s.base + (4095 - s.base)) (4095 - s.base) s.loadRegs s := by
  have hpast : ¬ (x.val + 1 = 0 ∨ s.base + (x.val + 1) ≤ 4095) :=
    not_or.mpr ⟨Nat.succ_ne_zero _, Nat.not_le.mpr h⟩
  simp only [exec, execLdVMem, firstMissing_eq, if_neg hpast]

/-- A load of the first `n` registers changes those registers. -/
theorem State.loadRegs_onlyChanges (s : State) {n : Nat} (hn : n ≤ 16) :
    OnlyChanges s (s.loadRegs n) (fun p => ∃ j : Reg, p = .reg j ∧ j.val < n) := by
  obtain ⟨v, hv⟩ := s.loadRegs_only n
  intro p
  cases p with
  | reg r =>
    by_cases h : r.val < n
    · exact .inl ⟨r, rfl, h⟩
    · exact .inr ((s.getV_loadRegs r n hn).trans (if_neg h))
  | _ => rw [hv]; exact .inr rfl

theorem State.loadRegs_pc (s : State) (n : Nat) : (s.loadRegs n).pc = s.pc := by
  obtain ⟨v, hv⟩ := s.loadRegs_only n
  rw [hv]

theorem State.loadRegs_engine (s : State) (n : Nat) : (s.loadRegs n).engine = s.engine := by
  obtain ⟨v, hv⟩ := s.loadRegs_only n
  rw [hv]

/-- Fx65 with every address in memory (43_index_memory.md R196, decision D12). -/
theorem exec_ldVMem_spec {x : Reg} {s : State} (h : s.i.toNat + (x.val + 1) ≤ 4095) :
    ∃ t, exec (.ldVMem x) s = .next t ∧
      (∀ j : Reg, j.val ≤ x.val → t.getV j = s.mem.read (s.i.toNat + j.val)) ∧
      t.engine = s.engine ∧ t.pc = s.pc + 2#16 ∧
      OnlyChanges s t (fun p => p = .pc ∨ ∃ j : Reg, p = .reg j ∧ j.val ≤ x.val) := by
  have hx := reg_lt x
  refine ⟨_, exec_ldVMem_fits h, fun j hj => ?_, s.loadRegs_engine _, ?_, ?_⟩
  · rw [State.advance_getV, s.getV_loadRegs j _ (by omega), if_pos (by omega)]
    rfl
  · rw [State.advance_pc, s.loadRegs_pc]
  · exact ((s.loadRegs_onlyChanges (by omega)).trans (State.advance_onlyChanges _ 2)).mono fun p hp =>
      hp.symm.imp_right fun ⟨j, hj, hlt⟩ => ⟨j, hj, Nat.lt_succ_iff.mp hlt⟩

/-- Settles O35: what the load of V0 to V[x] answers. -/
theorem registersAreLoaded : Obligations.RegistersAreLoaded := by
  intro x s hfits
  obtain ⟨t, ht, hread, -, hpc, hframe⟩ := exec_ldVMem_spec hfits
  exact ⟨t, ht, hread, hpc, hframe⟩

/-- Settles O36: the load reads, through the same `I`, the bytes the store wrote. -/
theorem storedRegistersComeBack : Obligations.StoredRegistersComeBack := by
  intro x s u hfits
  obtain ⟨t, ht, hstored, hi, -, -⟩ := exec_ldMemV_spec hfits
  refine ⟨t, ht, fun hmem hui => ?_⟩
  have hus : u.i = s.i := hui.trans hi
  obtain ⟨r, hr, hloaded, hengine, -, -⟩ := exec_ldVMem_spec (x := x) (s := u) (hus ▸ hfits)
  refine ⟨r, hr, hengine, fun j hj => ?_⟩
  rw [hloaded j hj, hmem, hus, hstored j hj]

/-- Settles O38: a register loaded before the fault has an address that exists. -/
theorem faultingLoadLeavesOldOrNewRegisters : Obligations.FaultingLoadLeavesOldOrNewRegisters := by
  intro x s hpast
  have hx := reg_lt x
  obtain ⟨k, hk, hraise⟩ := raiseMemory_answers (s.base + (4095 - s.base)) (4095 - s.base) s.loadRegs s
  have hbase : s.base = s.i.toNat := rfl
  have hk16 : k ≤ 16 := by omega
  refine ⟨_, (exec_ldVMem_past hpast).trans hraise, ?_, fun j => ?_, ?_⟩
  · rw [State.raise_engine, State.draw_pc, s.loadRegs_pc, firstMissing_addr]
  · rw [State.raise_getV, State.draw_getV, s.getV_loadRegs j k hk16]
    by_cases hj : j.val < k
    · rw [if_pos hj]
      exact .inr ⟨by omega, by omega, rfl⟩
    · exact .inl (if_neg hj)
  · exact ((s.loadRegs_onlyChanges hk16).mono fun p ⟨j, hp, _⟩ => ⟨j, hp⟩).fault _ _ _

/-- Settles O39: the two bytes are where the fetch reads, and both exist. -/
theorem storedCodeIsFetched : Obligations.StoredCodeIsFetched := by
  intro x j k s hfits hjk hkx
  obtain ⟨t, ht, hstored, -, -, -⟩ := exec_ldMemV_spec hfits
  refine ⟨t, ht, ?_⟩
  have hpc : (BitVec.ofNat 16 (s.i.toNat + j.val)).toNat = s.i.toNat + j.val := by
    rw [BitVec.toNat_ofNat]
    exact Nat.mod_eq_of_lt (by omega)
  have hhi := hstored j (by omega)
  have hlo := hstored k hkx
  rw [hjk, ← Nat.add_assoc] at hlo
  rw [State.fetch_eq, State.setPc_pc, hpc, if_neg (by omega), if_neg (by omega), State.wordAtPc, State.setPc_pc,
    hpc, State.setPc_mem, hhi, hlo]
  rfl

end Sys2Proof.Machine
end

section
/-! The statements about the display (44_display.md). A draw is a run of sprite bits, each at its linear index, and the
indices of one sprite rise along the run: rows are `DISP_W` apart and a row has eight columns. So each pixel meets one
bit at most, and what a draw does to it is what that bit does. -/

namespace Sys2Proof.Machine

/-! ## Clearing -/

/-- Bits 11..8 of family 0 are not examined (30_encoding.md R93). -/
theorem decodeWord_cls (x : Reg) : decodeWord (wordXkk 0x0#4 x 0xE0#8) = .ok .cls :=
  (decodeWord_eq_ok_iff _ _).mpr (wordXyn_clear_x 0x0#4 x 14 0x0#4)

theorem exec_cls (s : State) : exec .cls s = .next (s.clearDisplay.advance 2) := rfl

theorem clearDisplay_advance_onlyChanges (s : State) (n : Nat) : OnlyChanges s (s.clearDisplay.advance n)
    (fun p => p = .pc ∨ ∃ k, p = .pixel k ∨ p = .colour k) :=
  (s.clearDisplay_onlyChanges.trans (State.advance_onlyChanges _ n)).mono fun _ => Or.symm

/-- Settles O40: CLS is the clearing of the display and the advance. -/
theorem clearDisplay : Obligations.ClearDisplay :=
  ⟨decodeWord_cls, fun s => ⟨_, exec_cls s, fun k => ⟨s.pixel_clearDisplay k, s.colorAt_clearDisplay k⟩, rfl,
    clearDisplay_advance_onlyChanges s 2⟩⟩

/-! ## A run of sprite bits -/

/-- The sprite bits of a run, each with its linear index, drawn in order. -/
def drawBits (l : List (Nat × Bool)) (d : Drawing) : Drawing := l.foldl (fun d e => drawBit e.1 e.2 d) d

@[simp] theorem drawBits_nil (d : Drawing) : drawBits [] d = d := rfl

@[simp] theorem drawBits_cons (e : Nat × Bool) (l : List (Nat × Bool)) (d : Drawing) :
    drawBits (e :: l) d = drawBits l (drawBit e.1 e.2 d) := rfl

theorem drawBits_append (l l' : List (Nat × Bool)) (d : Drawing) :
    drawBits (l ++ l') d = drawBits l' (drawBits l d) := List.foldl_append

/-- The bits of the first `n` columns of a sprite row. -/
def rowBits (px py row : Nat) (b : Byte) (n : Nat) : List (Nat × Bool) :=
  (List.range n).map fun col => (pixelIndex px py col row, spriteBit b col)

/-- The bits of the first `n` rows of the sprite at `I`. -/
def spriteBits (px py : Nat) (s : State) (n : Nat) : List (Nat × Bool) :=
  (List.range n).flatMap fun row => rowBits px py row (s.mem.read (s.base + row)) 8

theorem drawCols_eq_drawBits (px py row : Nat) (b : Byte) (d : Drawing) (n : Nat) :
    drawCols px py row b n d = drawBits (rowBits px py row b n) d := by
  induction n with
  | zero => rfl
  | succ n ih =>
    rw [drawCols, ih, rowBits, rowBits, List.range_succ, List.map_append, drawBits_append]
    rfl

theorem drawRows_eq_drawBits (px py : Nat) (s : State) (n : Nat) :
    drawRows px py s n = drawBits (spriteBits px py s n) (s, false) := by
  induction n with
  | zero => rfl
  | succ n ih =>
    rw [drawRows, ih, drawCols_eq_drawBits, spriteBits, spriteBits, List.range_succ, List.flatMap_append,
      drawBits_append, List.flatMap_singleton]

/-- The indices of a sprite rise along its run. -/
theorem spriteBits_rising (px py : Nat) (s : State) (n : Nat) :
    (spriteBits px py s n).Pairwise (fun e e' => e.1 < e'.1) := by
  refine List.pairwise_flatMap.mpr ⟨fun row _ => ?_, ?_⟩
  · refine List.pairwise_map.mpr (List.pairwise_lt_range.imp fun hcol => ?_)
    exact Nat.add_lt_add_right (Nat.add_lt_add_left hcol px) _
  · refine List.pairwise_lt_range.imp fun {row row'} hrow => ?_
    intro e he e' he'
    obtain ⟨col, hcol, rfl⟩ := List.mem_map.mp he
    obtain ⟨col', -, rfl⟩ := List.mem_map.mp he'
    have hcol := List.mem_range.mp hcol
    show px + col + (py + row) * 64 < px + col' + (py + row') * 64
    omega

theorem drawBit_cfg (index : Nat) (bit : Bool) (d : Drawing) : (drawBit index bit d).1.cfg = d.1.cfg := by
  obtain ⟨p, c, h⟩ := drawBit_only index bit d
  rw [h]

/-- One sprite bit and the colour buffer (44_display.md R211). -/
theorem drawBit_colour (index : Nat) (bit : Bool) (d : Drawing) (k : Pixel) :
    (drawBit index bit d).1.colorAt k =
      if index = k.val then colorOf d.1.cfg ((drawBit index bit d).1.pixel k) else d.1.colorAt k := by
  by_cases hk : index = k.val
  · subst hk
    rw [if_pos rfl, drawBit_pixel, if_pos rfl, drawBit, dif_pos k.isLt, State.colorAt_setPixel, if_pos rfl]
  · rw [if_neg hk, drawBit]
    split
    · rw [State.colorAt_setPixel, if_neg fun e => hk (congrArg Fin.val e).symm]
    · rfl

section Run
variable {l : List (Nat × Bool)} {d : Drawing} {k : Pixel}

/-- A pixel that no bit of the run falls on keeps its colour and its value. -/
theorem drawBits_untouched (h : ∀ e ∈ l, e.1 ≠ k.val) :
    (drawBits l d).1.pixel k = d.1.pixel k ∧ (drawBits l d).1.colorAt k = d.1.colorAt k := by
  induction l generalizing d with
  | nil => exact ⟨rfl, rfl⟩
  | cons e l ih =>
    obtain ⟨he, hl⟩ := List.forall_mem_cons.mp h
    obtain ⟨hpixel, hcolour⟩ := ih (d := drawBit e.1 e.2 d) hl
    rw [drawBits_cons, hpixel, hcolour, drawBit_pixel, drawBit_colour, if_neg he, if_neg he]
    exact ⟨rfl, rfl⟩

/-- The bits after one that falls on `k` do not, in a rising run. -/
theorem ne_of_rising {e : Nat × Bool} (h : (e :: l).Pairwise (fun e e' => e.1 < e'.1)) (he : e.1 = k.val) :
    ∀ e' ∈ l, e'.1 ≠ k.val :=
  fun _ he' hk => Nat.ne_of_lt (List.rel_of_pairwise_cons h he') (he.trans hk.symm)

/-- The one bit of a rising run that falls on a pixel is what changes it. -/
theorem drawBits_pixel {b : Bool} (hrise : l.Pairwise (fun e e' => e.1 < e'.1)) (hmem : (k.val, b) ∈ l) :
    (drawBits l d).1.pixel k = (d.1.pixel k ^^ b) := by
  induction l generalizing d with
  | nil => exact absurd hmem List.not_mem_nil
  | cons e l ih =>
    rw [drawBits_cons]
    rcases List.mem_cons.mp hmem with rfl | hmem
    · rw [(drawBits_untouched (ne_of_rising hrise rfl)).1, drawBit_pixel, if_pos rfl]
    · rw [ih hrise.of_cons hmem, drawBit_pixel, if_neg fun he => ne_of_rising hrise he _ hmem rfl]

/-- The colour word of a pixel that the run touches is the pixel's colour. -/
theorem drawBits_colour {b : Bool} (hmem : (k.val, b) ∈ l) (hrise : l.Pairwise (fun e e' => e.1 < e'.1)) :
    (drawBits l d).1.colorAt k = colorOf d.1.cfg ((drawBits l d).1.pixel k) := by
  induction l generalizing d with
  | nil => exact absurd hmem List.not_mem_nil
  | cons e l ih =>
    rw [drawBits_cons]
    rcases List.mem_cons.mp hmem with rfl | hmem
    · obtain ⟨hpixel, hcolour⟩ := drawBits_untouched (d := drawBit k.val b d) (ne_of_rising hrise rfl)
      rw [hpixel, hcolour, drawBit_colour, if_pos rfl]
    · rw [ih hmem hrise.of_cons, drawBit_cfg]

/-- A collision of a rising run: a 1-bit on a pixel that was on before the run (44_display.md R215). -/
theorem drawBits_hit (hrise : l.Pairwise (fun e e' => e.1 < e'.1)) :
    (drawBits l d).2 = true ↔ d.2 = true ∨ ∃ k : Pixel, (k.val, true) ∈ l ∧ d.1.pixel k = true := by
  induction l generalizing d with
  | nil => simp
  | cons e l ih =>
    rw [drawBits_cons, ih hrise.of_cons, drawBit_hit, or_assoc, or_congr_right]
    have hkeep : ∀ k : Pixel, (k.val, true) ∈ l → (drawBit e.1 e.2 d).1.pixel k = d.1.pixel k := by
      intro k hk
      rw [drawBit_pixel, if_neg fun he => ne_of_rising hrise he _ hk rfl]
    constructor
    · rintro (⟨k, hk, hb, hp⟩ | ⟨k, hk, hp⟩)
      · exact ⟨k, List.mem_cons.mpr (.inl (Prod.ext hk.symm hb.symm)), hp⟩
      · exact ⟨k, List.mem_cons_of_mem e hk, hkeep k hk ▸ hp⟩
    · rintro ⟨k, hk, hp⟩
      rcases List.mem_cons.mp hk with rfl | hk
      · exact .inl ⟨k, rfl, rfl, hp⟩
      · exact .inr ⟨k, hk, (hkeep k hk).trans hp⟩

end Run

/-! ## A sprite -/

/-- The first `n` rows of the sprite of Dxyn, drawn. -/
def State.sprite (s : State) (x y : Reg) (n : Nat) : Drawing := drawRows (s.getV x).toNat (s.getV y).toNat s n

/-- The run of the sprite's bits. -/
def State.bitsOf (s : State) (x y : Reg) (n : Nat) : List (Nat × Bool) :=
  spriteBits (s.getV x).toNat (s.getV y).toNat s n

section Sprite
variable (s : State) (x y : Reg) (n : Nat)

theorem sprite_eq : s.sprite x y n = drawBits (s.bitsOf x y n) (s, false) := drawRows_eq_drawBits ..

theorem bitsOf_rising : (s.bitsOf x y n).Pairwise (fun e e' => e.1 < e'.1) := spriteBits_rising ..

theorem mem_bitsOf_iff (k : Pixel) (b : Bool) : (k.val, b) ∈ s.bitsOf x y n ↔
    ∃ row < n, ∃ col < 8, SpriteCovers (s.getV x).toNat (s.getV y).toNat row col k ∧
      (s.mem.read (s.i.toNat + row)).getLsbD (7 - col) = b := by
  simp only [State.bitsOf, spriteBits, rowBits, List.mem_flatMap, List.mem_map, List.mem_range, Prod.mk.injEq]
  rfl

theorem spriteSets_iff (k : Pixel) : SpriteSets s x y n k ↔ (k.val, true) ∈ s.bitsOf x y n :=
  (mem_bitsOf_iff s x y n k true).symm

theorem spriteTouches_iff (k : Pixel) : SpriteTouches s x y n k ↔ ∃ b, (k.val, b) ∈ s.bitsOf x y n := by
  simp only [mem_bitsOf_iff]
  constructor
  · rintro ⟨row, hrow, col, hcol, hcovers⟩
    exact ⟨_, row, hrow, col, hcol, hcovers, rfl⟩
  · rintro ⟨b, row, hrow, col, hcol, hcovers, -⟩
    exact ⟨row, hrow, col, hcol, hcovers⟩

end Sprite

section Sprite
variable {s : State} {x y : Reg} {n : Nat} {k : Pixel}

/-- A pixel the sprite does not touch keeps its value and its colour. -/
theorem sprite_untouched (h : ¬ SpriteTouches s x y n k) :
    (s.sprite x y n).1.pixel k = s.pixel k ∧ (s.sprite x y n).1.colorAt k = s.colorAt k := by
  rw [sprite_eq]
  refine drawBits_untouched fun e he hk => h ?_
  exact (spriteTouches_iff s x y n k).mpr ⟨e.2, hk ▸ he⟩

/-- A pixel under a 1-bit is inverted (44_display.md R213). -/
theorem sprite_pixel_of_sets (h : SpriteSets s x y n k) : (s.sprite x y n).1.pixel k = !s.pixel k := by
  rw [sprite_eq, drawBits_pixel (bitsOf_rising s x y n) ((spriteSets_iff s x y n k).mp h), Bool.xor_true]

/-- A pixel under no 1-bit is as before: under a 0-bit, or not touched. -/
theorem sprite_pixel_of_not_sets (h : ¬ SpriteSets s x y n k) : (s.sprite x y n).1.pixel k = s.pixel k := by
  by_cases htouch : SpriteTouches s x y n k
  · obtain ⟨b, hmem⟩ := (spriteTouches_iff s x y n k).mp htouch
    cases b with
    | true => exact absurd ((spriteSets_iff s x y n k).mpr hmem) h
    | false => rw [sprite_eq, drawBits_pixel (bitsOf_rising s x y n) hmem, Bool.xor_false]
  · exact (sprite_untouched htouch).1

/-- A touched colour word is in step with its pixel (44_display.md R211). -/
theorem sprite_colour (h : SpriteTouches s x y n k) :
    (s.sprite x y n).1.colorAt k = colorOf s.cfg ((s.sprite x y n).1.pixel k) := by
  obtain ⟨b, hmem⟩ := (spriteTouches_iff s x y n k).mp h
  rw [sprite_eq, drawBits_colour hmem (bitsOf_rising s x y n)]

/-- The collision of a sprite (44_display.md R215). -/
theorem sprite_hit : (s.sprite x y n).2 = true ↔ ∃ k, SpriteSets s x y n k ∧ s.pixel k = true := by
  rw [sprite_eq, drawBits_hit (bitsOf_rising s x y n)]
  simp only [spriteSets_iff, Bool.false_eq_true, false_or]

theorem sprite_onlyChanges (s : State) (x y : Reg) (n : Nat) : OnlyChanges s (s.sprite x y n).1
    (fun p => ∃ k, SpriteTouches s x y n k ∧ (p = .pixel k ∨ p = .colour k)) := by
  obtain ⟨plane, color, h⟩ := drawRows_only (s.getV x).toNat (s.getV y).toNat s n
  intro p
  cases p with
  | pixel k =>
    by_cases htouch : SpriteTouches s x y n k
    · exact .inl ⟨k, htouch, .inl rfl⟩
    · exact .inr (sprite_untouched htouch).1
  | colour k =>
    by_cases htouch : SpriteTouches s x y n k
    · exact .inl ⟨k, htouch, .inr rfl⟩
    · exact .inr (sprite_untouched htouch).2
  | _ => rw [State.sprite, h]; exact .inr rfl

end Sprite

/-! ## Dxyn -/

theorem exec_drw_fits {x y : Reg} {n : Fin 16} {s : State} (h : n.val = 0 ∨ s.i.toNat + n.val ≤ 4095) :
    exec (.drw x y n) s =
      .next (((s.sprite x y n.val).1.setV 15 (flagByte (s.sprite x y n.val).2)).advance 2) := by
  have hfits : n.val = 0 ∨ s.base + n.val ≤ 4095 := h
  simp only [exec, execDrw, firstMissing_eq, if_pos hfits]
  rfl

theorem exec_drw_past {x y : Reg} {n : Fin 16} {s : State} (hn : n.val ≠ 0) (h : 4095 < s.i.toNat + n.val) :
    exec (.drw x y n) s = raiseMemory (s.base + (4095 - s.base)) (4095 - s.base)
      (fun k => (s.sprite x y k).1.setV 15 (Config.freeFlagAfterFault s.draws)) s := by
  have hpast : ¬ (n.val = 0 ∨ s.base + n.val ≤ 4095) := not_or.mpr ⟨hn, Nat.not_le.mpr h⟩
  simp only [exec, execDrw, firstMissing_eq, if_neg hpast]
  rfl

theorem sprite_setV_onlyChanges (s : State) (x y : Reg) (n : Nat) (b : Byte) :
    OnlyChanges s ((s.sprite x y n).1.setV 15 b) (fun p => p = .reg 15 ∨
      ∃ k, SpriteTouches s x y n k ∧ (p = .pixel k ∨ p = .colour k)) :=
  ((sprite_onlyChanges s x y n).trans (State.setV_onlyChanges _ 15 b)).mono fun _ => Or.symm

theorem sprite_setV_advance_onlyChanges (s : State) (x y : Reg) (n : Nat) (b : Byte) (m : Nat) :
    OnlyChanges s (((s.sprite x y n).1.setV 15 b).advance m) (fun p => p = .reg 15 ∨ p = .pc ∨
      ∃ k, SpriteTouches s x y n k ∧ (p = .pixel k ∨ p = .colour k)) :=
  ((sprite_setV_onlyChanges s x y n b).trans (State.advance_onlyChanges _ m)).mono fun _ h =>
    or_right_comm.mp h |> or_assoc.mp

/-- What a draw does not reach. -/
theorem sprite_keeps (s : State) (x y : Reg) (n : Nat) : (s.sprite x y n).1.pc = s.pc ∧
    (s.sprite x y n).1.i = s.i ∧ (s.sprite x y n).1.mem = s.mem ∧
    ∀ r, (s.sprite x y n).1.getV r = s.getV r := by
  obtain ⟨plane, color, h⟩ := drawRows_only (s.getV x).toNat (s.getV y).toNat s n
  rw [State.sprite, h]
  exact ⟨rfl, rfl, rfl, fun _ => rfl⟩

/-- What Dxyn answers with every row in memory. -/
theorem exec_drw_spec {x y : Reg} {n : Fin 16} {s : State} (h : n.val = 0 ∨ s.i.toNat + n.val ≤ 4095) :
    ∃ t, exec (.drw x y n) s = .next t ∧
      (∀ k, t.pixel k = (s.sprite x y n.val).1.pixel k ∧ t.colorAt k = (s.sprite x y n.val).1.colorAt k) ∧
      t.getV 15 = flagByte (s.sprite x y n.val).2 ∧ (∀ r, r ≠ 15 → t.getV r = s.getV r) ∧
      t.pc = s.pc + 2#16 ∧ t.i = s.i ∧ t.mem = s.mem := by
  obtain ⟨hpc, hi, hmem, hreg⟩ := sprite_keeps s x y n.val
  refine ⟨_, exec_drw_fits h, fun k => ⟨rfl, rfl⟩, State.getV_setV_same _ 15 _, fun r hr => ?_, ?_, hi, hmem⟩
  · rw [State.advance_getV, State.getV_setV_ne _ _ hr, hreg]
  · rw [State.advance_pc, State.setV_pc, hpc]

/-- VF after a draw is 1 exactly when a 1-bit met an on pixel. -/
theorem flagByte_hit_iff {s : State} {x y : Reg} {n : Nat} :
    flagByte (s.sprite x y n).2 = 1#8 ↔ ∃ k, SpriteSets s x y n k ∧ s.pixel k = true := by
  rw [← sprite_hit]
  cases (s.sprite x y n).2 <;> decide

/-- Settles O41: the pixels, colours and collision of the sprite; VF and `pc` are written after it. -/
theorem drawXorsTheSprite : Obligations.DrawXorsTheSprite := by
  intro x y n s hfits
  refine ⟨_, exec_drw_fits hfits, fun k => sprite_pixel_of_sets, fun k => sprite_pixel_of_not_sets,
    fun k => sprite_colour, fun hhit => ?_, fun hmiss => ?_, ?_, sprite_setV_advance_onlyChanges s x y _ _ _⟩
  · rw [State.advance_getV, State.getV_setV_same, flagByte_hit_iff.mpr hhit]
  · rw [State.advance_getV, State.getV_setV_same, Bool.eq_false_iff.mpr (mt sprite_hit.mp hmiss)]
    rfl
  · rw [State.advance_pc, State.setV_pc, (sprite_keeps s x y n.val).1]

/-- A sprite sets the same pixels where position, `I` and memory are the same. -/
theorem spriteSets_congr {s w : State} {x y : Reg} (hi : w.i = s.i) (hmem : w.mem = s.mem)
    (hx : w.getV x = s.getV x) (hy : w.getV y = s.getV y) (n : Nat) (k : Pixel) :
    SpriteSets w x y n k ↔ SpriteSets s x y n k := by
  unfold SpriteSets
  rw [hi, hmem, hx, hy]

/-- Settles O42: each pixel under a 1-bit is inverted twice, and it is on for the second draw exactly where it was
off for the first. -/
theorem drawTwiceRestoresThePlane : Obligations.DrawTwiceRestoresThePlane := by
  intro x y n s hfits
  obtain ⟨t, ht, hplane, -, hreg, -, hi, hmem⟩ := exec_drw_spec (x := x) (y := y) hfits
  refine ⟨t, ht, hi, hmem, hreg x, hreg y, fun w hwi hwmem hwx hwy hwplane => ?_⟩
  have hsets := spriteSets_congr hwi hwmem hwx hwy n.val
  obtain ⟨u, hu, huplane, huflag, -⟩ := exec_drw_spec (x := x) (y := y) (s := w) (hwi ▸ hfits)
  have hw : ∀ k, SpriteSets s x y n.val k → w.pixel k = !s.pixel k := fun k hk =>
    (hwplane k).trans ((hplane k).1.trans (sprite_pixel_of_sets hk))
  have hflag : u.getV 15 = 1#8 ↔ ∃ k, SpriteSets s x y n.val k ∧ s.pixel k = false := by
    rw [huflag, flagByte_hit_iff]
    refine exists_congr fun k => ?_
    rw [hsets k]
    exact and_congr_right fun hk => by rw [hw k hk, Bool.not_eq_true']
  refine ⟨u, hu, fun k => ?_, hflag, fun hclear => hflag.trans ?_⟩
  · rw [(huplane k).1]
    by_cases hk : SpriteSets s x y n.val k
    · rw [sprite_pixel_of_sets ((hsets k).mpr hk), hw k hk, Bool.not_not]
    · rw [sprite_pixel_of_not_sets (mt (hsets k).mp hk), hwplane, (hplane k).1, sprite_pixel_of_not_sets hk]
  · exact exists_congr fun k => and_iff_left_of_imp (hclear k)

theorem spriteSets_mono {s : State} {x y : Reg} {n m : Nat} (h : n ≤ m) {k : Pixel}
    (hk : SpriteSets s x y n k) : SpriteSets s x y m k :=
  hk.imp fun _ hrow => hrow.imp_left (lt_of_lt_of_le · h)

theorem spriteTouches_mono {s : State} {x y : Reg} {n m : Nat} (h : n ≤ m) {k : Pixel}
    (hk : SpriteTouches s x y n k) : SpriteTouches s x y m k :=
  hk.imp fun _ hrow => hrow.imp_left (lt_of_lt_of_le · h)

/-- Settles O43: the rows drawn before the fault are some of those whose address exists. -/
theorem faultingDrawLeavesOldOrNewPixels : Obligations.FaultingDrawLeavesOldOrNewPixels := by
  intro x y n s hn hpast
  obtain ⟨j, hj, hraise⟩ := raiseMemory_answers (s.base + (4095 - s.base)) (4095 - s.base)
    (fun k => (s.sprite x y k).1.setV 15 (Config.freeFlagAfterFault s.draws)) s
  refine ⟨_, (exec_drw_past hn hpast).trans hraise, ?_, fun k => ?_, ?_⟩
  · rw [State.raise_engine, State.draw_pc, State.setV_pc, (sprite_keeps s x y j).1, firstMissing_addr]
  · by_cases hk : SpriteSets s x y j k
    · exact .inr (spriteSets_mono hj hk)
    · exact .inl (sprite_pixel_of_not_sets hk)
  · refine (sprite_setV_onlyChanges s x y j _).mono (fun p => ?_) |>.fault _ _ _
    exact Or.imp_right fun ⟨k, hk, hp⟩ => ⟨k, spriteTouches_mono hj hk, hp⟩

end Sys2Proof.Machine
end

section
/-! The statements about timers and keys (45_timers_input.md) and the driver's operations (40_cycle.md R126). -/

namespace Sys2Proof.Machine

/-! ## Timer moves -/

theorem exec_ldVDt (x : Reg) (s : State) : exec (.ldVDt x) s = .next ((s.setV x s.dt).advance 2) := rfl

theorem exec_ldDtV (x : Reg) (s : State) : exec (.ldDtV x) s = .next ((s.setDt (s.getV x)).advance 2) := rfl

theorem exec_ldStV (x : Reg) (s : State) : exec (.ldStV x) s = .next ((s.setSt (s.getV x)).advance 2) := rfl

theorem setDt_advance_onlyChanges (s : State) (b : Timer) (n : Nat) :
    OnlyChanges s ((s.setDt b).advance n) (fun p => p = .dt ∨ p = .pc) :=
  (s.setDt_onlyChanges b).trans (State.advance_onlyChanges _ n)

theorem setSt_advance_onlyChanges (s : State) (b : Timer) (n : Nat) :
    OnlyChanges s ((s.setSt b).advance n) (fun p => p = .st ∨ p = .pc) :=
  (s.setSt_onlyChanges b).trans (State.advance_onlyChanges _ n)

/-- Settles O44: each instruction writes one register or one timer and advances. -/
theorem timerMoves : Obligations.TimerMoves :=
  fun x s => ⟨⟨_, exec_ldVDt x s, setV_advance_spec s x s.dt⟩,
    ⟨_, exec_ldDtV x s, rfl, rfl, setDt_advance_onlyChanges s _ 2⟩,
    ⟨_, exec_ldStV x s, rfl, rfl, setSt_advance_onlyChanges s _ 2⟩⟩

/-! ## Key skips -/

theorem exec_skp (x : Reg) (s : State) : exec (.skp x) s = skipIf (s.keyHeld (s.getV x)) s := rfl

theorem exec_sknp (x : Reg) (s : State) : exec (.sknp x) s = skipIf (!s.keyHeld (s.getV x)) s := rfl

/-- A byte is held where it is the number of a held key; a number of 16 or more is none (decision D14). -/
theorem keyHeld_iff (s : State) (b : Byte) :
    s.keyHeld b = true ↔ ∃ k : Key, k.val = b.toNat ∧ s.key k = true := by
  unfold State.keyHeld
  split
  · next h =>
    refine ⟨fun hkey => ⟨_, rfl, hkey⟩, ?_⟩
    rintro ⟨k, hk, hkey⟩
    rwa [show k = ⟨b.toNat, h⟩ from Fin.ext hk] at hkey
  · next h =>
    refine ⟨nofun, ?_⟩
    rintro ⟨k, hk, -⟩
    exact absurd (hk ▸ k.isLt) h

/-- Settles O45: both are the skip pattern, on the key held and on its negation. -/
theorem keySkips : Obligations.KeySkips := by
  intro x s held
  have hheld : held ↔ s.keyHeld (s.getV x) = true := (keyHeld_iff s _).symm
  obtain ⟨t, ht, htpc, htframe⟩ := skipIf_spec (s.keyHeld (s.getV x)) s
  obtain ⟨u, hu, hupc, huframe⟩ := skipIf_spec (!s.keyHeld (s.getV x)) s
  refine ⟨t, u, (exec_skp x s).trans ht, (exec_sknp x s).trans hu, fun h => ?_, fun h => ?_, htframe, huframe⟩
  · rw [htpc, hupc, hheld.mp h]
    exact ⟨rfl, rfl⟩
  · rw [htpc, hupc, Bool.eq_false_iff.mpr (mt hheld.mpr h)]
    exact ⟨rfl, rfl⟩

/-! ## The key wait -/

theorem exec_ldVK (x : Reg) (s : State) : exec (.ldVK x) s = .next (s.setEngine (.awaitingKey x)) := rfl

/-- Settles O46: Fx0A writes the control state only. -/
theorem keyWaitBegins : Obligations.KeyWaitBegins :=
  fun x s => ⟨_, exec_ldVK x s, rfl, s.setEngine_onlyChanges _⟩

/-- A key number fits in a register. -/
theorem State.getV_setV_key_toNat (s : State) (x : Reg) (k : Key) :
    ((s.setV x (BitVec.ofNat 8 k.val)).getV x).toNat = k.val := by
  have := key_lt k
  rw [s.getV_setV_same, BitVec.toNat_ofNat]
  exact Nat.mod_eq_of_lt (by omega)

/-- A delivery to a waiting engine (R238): the register, then the control state, and `pc` by `FX0A_RESUME`
(decision D15). -/
theorem deliverKey_spec {s : State} {x : Reg} (h : s.engine = .awaitingKey x) (k : Key) :
    ((s.deliverKey k).getV x).toNat = k.val ∧ (s.deliverKey k).engine = .running ∧
      (s.deliverKey k).pc = (if s.cfg.fx0aResume = .advance then s.pc + 2#16 else s.pc) ∧
      OnlyChanges s (s.deliverKey k) (fun p => p = .reg x ∨ p = .engine ∨ p = .pc) := by
  have hframe := (s.setV_onlyChanges x (BitVec.ofNat 8 k.val)).trans (State.setEngine_onlyChanges _ .running)
  have hreg := s.getV_setV_key_toNat x k
  simp only [State.deliverKey, h]
  cases hmode : s.cfg.fx0aResume with
  | advance =>
    simp only [if_true]
    exact ⟨hreg, rfl, rfl, (hframe.trans (State.advance_onlyChanges _ 2)).mono fun _ => or_assoc.mp⟩
  | refetch =>
    simp only [reduceCtorEq, if_false]
    exact ⟨hreg, rfl, rfl, hframe.mono fun _ hp => hp.imp_right .inl⟩

theorem deliverKey_of_not_waiting {s : State} (h : ∀ x, s.engine ≠ .awaitingKey x) (k : Key) :
    s.deliverKey k = s := by
  unfold State.deliverKey
  split
  · next x hx => exact absurd hx (h x)
  · rfl
  · rfl

/-- Settles O49: the delivery to a waiting engine, and to any other. -/
theorem deliverKeyEndsOnlyAWait : Obligations.DeliverKeyEndsOnlyAWait :=
  fun k s => ⟨s.deliverKey k, rfl, fun _ hx => deliverKey_spec hx k, fun h => deliverKey_of_not_waiting h k⟩

/-- The cycle of Fx0A: the word is latched and the wait begins, without a tick (40_cycle.md R119). -/
theorem step_of_about_ldVK {s : State} {x : Reg} (h : s.About (.ldVK x)) :
    step s = .next ((s.latch s.wordAtPc).setEngine (.awaitingKey x)) := by
  rw [step_of_about h, exec_ldVK]
  exact finishCycle_stopped (by simp)

/-- Settles O47: the three parts in a row; the control state is Running at both ends. -/
theorem keyWaitRoundTrip : Obligations.KeyWaitRoundTrip := by
  intro x k n s habout
  have hwaits : ((s.latch s.wordAtPc).setEngine (.awaitingKey x)).engine = .awaitingKey x := rfl
  obtain ⟨hreg, hengine, hpc, hframe⟩ := deliverKey_spec hwaits k
  refine ⟨_, step_of_about_ldVK habout, waitingCyclesChangeNothing _ x n hwaits, hwaits, rfl, rfl, rfl, hengine,
    hreg, fun hmode => ?_, fun hmode => ?_, ?_⟩
  · exact hpc.trans (if_pos hmode)
  · exact hpc.trans (if_neg (by simp [hmode]))
  · refine (((s.latch_onlyChanges _).trans (State.setEngine_onlyChanges _ _)).trans hframe).narrow ?_
    rintro p ((rfl | rfl) | rfl | rfl | rfl)
    · exact .inl (.inr (.inr rfl))
    · exact .inr (hengine.trans habout.1.symm)
    · exact .inl (.inl rfl)
    · exact .inr (hengine.trans habout.1.symm)
    · exact .inl (.inr (.inl rfl))

/-! ## The driver's other operations -/

/-- Settles O48: the key written is read back. -/
theorem setKeyWritesOneKey : Obligations.SetKeyWritesOneKey :=
  fun k held s => ⟨s.setKey k held, rfl, (s.key_setKey k k held).trans (if_pos rfl), s.setKey_onlyChanges k held⟩

/-- Settles O50: the operation is a write of `pc`. -/
theorem disassemblyResetsOnlyThePc : Obligations.DisassemblyResetsOnlyThePc :=
  fun s => ⟨s.disasmResetPc, rfl, rfl, s.setPc_onlyChanges _⟩

end Sys2Proof.Machine
end

section
/-! The statement about what each instruction may change (10_state.md, 20_memory.md R70): the frame of each
instruction, held against the tables. -/

namespace Sys2Proof.Machine

/-! The combinations of parts that several instructions write. -/

section Tables
variable {i : Instr} {s : State}

theorem mayChange_pc (hpc : mayChange i s .pc) : ∀ p, p = .pc → mayChange i s p := by
  rintro p rfl
  exact hpc

theorem mayChange_two {q : Part} (hq : mayChange i s q) (hpc : mayChange i s .pc) :
    ∀ p, p = q ∨ p = .pc → mayChange i s p := by
  rintro p (rfl | rfl)
  · exact hq
  · exact hpc

theorem mayChange_result_flag {x : Reg} (hx : mayChange i s (.reg x)) (hflag : mayChange i s (.reg 15))
    (hpc : mayChange i s .pc) : ∀ p, p = .reg x ∨ p = .reg 15 ∨ p = .pc → mayChange i s p := by
  rintro p (rfl | hp)
  · exact hx
  · exact mayChange_two hflag hpc p hp

theorem mayChange_stack (hstack : mayChange i s .stack) (hpc : mayChange i s .pc) :
    ∀ p, p = .pc ∨ p = .stack → mayChange i s p :=
  fun p hp => mayChange_two hstack hpc p hp.symm

theorem mayChange_bytes {n : Nat} (hbyte : ∀ a, s.i.toNat ≤ a ∧ a < s.i.toNat + n → mayWriteByte s a i)
    (hpc : mayChange i s .pc) :
    ∀ p, (p = .pc ∨ ∃ a, p = .byte a ∧ s.i.toNat ≤ a ∧ a < s.i.toNat + n) → mayChange i s p := by
  rintro p (rfl | ⟨a, rfl, ha⟩)
  · exact hpc
  · exact hbyte a ha

end Tables

/-! The instructions that can fault, where they complete: what holds then, and the state they answer. -/

section Completing
variable {s t : State}

theorem ret_completes (hexec : exec .ret s = .next t) (hsafe : t.Safe) :
    ∃ rest v, s.stack = rest ++ [v] ∧ t = (s.setStack rest).setPc (v + 2#16) := by
  rcases s.stack.eq_nil_or_concat' with hempty | ⟨rest, v, hstack⟩
  · cases (exec_ret_empty hempty).symm.trans hexec
    exact absurd rfl (hsafe _)
  · cases (exec_ret_pop hstack).symm.trans hexec
    exact ⟨rest, v, hstack, rfl⟩

theorem call_completes {nnn : Addr} (hexec : exec (.call nnn) s = .next t) (hsafe : t.Safe) :
    s.cfg.stackCapacity ≠ some s.stack.length ∧ t = (s.setStack (s.stack ++ [s.pc])).setPc (zextAddr nnn) := by
  by_cases hfull : s.cfg.stackCapacity = some s.stack.length
  · cases (exec_call_full nnn hfull).symm.trans hexec
    exact absurd rfl (hsafe _)
  · cases (exec_call_push nnn hfull).symm.trans hexec
    exact ⟨hfull, rfl⟩

theorem storeAtI_completes {bs : List Byte} (hstore : storeAtI bs s = .next t) (hsafe : t.Safe) :
    t = (s.memWriteBytes s.base bs).advance 2 := by
  by_cases hfits : bs.length = 0 ∨ s.base + bs.length ≤ 4095
  · cases (storeAtI_fits hfits).symm.trans hstore
    rfl
  · cases (storeAtI_past hfits).symm.trans hstore
    exact absurd rfl (hsafe _)

theorem ldVMem_completes {x : Reg} (hexec : exec (.ldVMem x) s = .next t) (hsafe : t.Safe) :
    t = (s.loadRegs (x.val + 1)).advance 2 := by
  rcases Nat.lt_or_ge 4095 (s.i.toNat + (x.val + 1)) with hpast | hfits
  · cases (exec_ldVMem_past hpast).symm.trans hexec
    exact absurd rfl (hsafe _)
  · cases (exec_ldVMem_fits hfits).symm.trans hexec
    rfl

theorem drw_completes {x y : Reg} {n : Fin 16} (hexec : exec (.drw x y n) s = .next t) (hsafe : t.Safe) :
    t = ((s.sprite x y n.val).1.setV 15 (flagByte (s.sprite x y n.val).2)).advance 2 := by
  by_cases hfits : n.val = 0 ∨ s.i.toNat + n.val ≤ 4095
  · cases (exec_drw_fits hfits).symm.trans hexec
    rfl
  · obtain ⟨hn, hpast⟩ := not_or.mp hfits
    cases (exec_drw_past hn (Nat.not_le.mp hpast)).symm.trans hexec
    exact absurd rfl (hsafe _)

end Completing

/-- Settles O56: the frame of each instruction, or of the operation it is, held against the tables. -/
theorem instructionChangesOnlyItsParts : Obligations.InstructionChangesOnlyItsParts := by
  intro i s t _ hexec hsafe
  cases i with
  | jp _ | jpV0 _ => cases hexec; exact (s.setPc_onlyChanges _).mono (mayChange_pc nofun)
  | seImm _ _ | sneImm _ _ | seReg _ _ | skp _ | sknp _ =>
    cases hexec; exact (s.advance_onlyChanges _).mono (mayChange_pc nofun)
  | ldImm x _ | addImm x _ | ldReg x _ | orReg x _ | andReg x _ | xorReg x _ | ldVDt x =>
    cases hexec; exact (s.setV_advance_onlyChanges x _ 2).mono (mayChange_two rfl nofun)
  | addReg x _ | sub x _ | subn x _ | shr x | shl x =>
    cases hexec
    exact (s.writeResultFlag_onlyChanges x _ _).mono (mayChange_result_flag (.inl rfl) (.inr rfl) nofun)
  | ldI nnn => cases hexec; exact (s.setI_advance_onlyChanges _ 2).mono (mayChange_two (.inl ⟨nnn, rfl⟩) nofun)
  | addI x => cases hexec; exact (s.setI_advance_onlyChanges _ 2).mono (mayChange_two (.inr (.inl ⟨x, rfl⟩)) nofun)
  | ldF x => cases hexec; exact (s.setI_advance_onlyChanges _ 2).mono (mayChange_two (.inr (.inr ⟨x, rfl⟩)) nofun)
  | ldDtV x => cases hexec; exact (setDt_advance_onlyChanges s _ 2).mono (mayChange_two ⟨x, rfl⟩ nofun)
  | ldStV x => cases hexec; exact (setSt_advance_onlyChanges s _ 2).mono (mayChange_two ⟨x, rfl⟩ nofun)
  | ret =>
    obtain ⟨rest, v, -, rfl⟩ := ret_completes hexec hsafe
    exact (setStack_setPc_onlyChanges s _ _).mono (mayChange_stack (.inl rfl) nofun)
  | call nnn =>
    obtain ⟨-, rfl⟩ := call_completes hexec hsafe
    exact (setStack_setPc_onlyChanges s _ _).mono (mayChange_stack (.inr ⟨nnn, rfl⟩) nofun)
  | ldB x =>
    obtain rfl := storeAtI_completes hexec hsafe
    exact (memWriteBytes_advance_onlyChanges s _ _ 2).mono (mayChange_bytes (fun _ => id) nofun)
  | ldMemV x =>
    obtain rfl := storeAtI_completes hexec hsafe
    have hframe := memWriteBytes_advance_onlyChanges s s.base (s.regsUpTo x) 2
    rw [s.regsUpTo_length] at hframe
    exact hframe.mono (mayChange_bytes (fun _ => id) nofun)
  | ldVMem x =>
    obtain rfl := ldVMem_completes hexec hsafe
    refine ((s.loadRegs_onlyChanges (reg_lt x)).trans (State.advance_onlyChanges _ 2)).mono ?_
    rintro p (⟨j, rfl, hj⟩ | rfl)
    · exact Nat.lt_succ_iff.mp hj
    · exact nofun
  | cls =>
    cases hexec
    refine (clearDisplay_advance_onlyChanges s 2).mono ?_
    rintro p (rfl | ⟨k, rfl | rfl⟩)
    · exact nofun
    · exact trivial
    · exact trivial
  | drw x y n =>
    obtain rfl := drw_completes hexec hsafe
    refine (sprite_setV_advance_onlyChanges s x y _ _ 2).mono ?_
    rintro p (rfl | rfl | ⟨k, hk, rfl | rfl⟩)
    · exact rfl
    · exact nofun
    · exact hk
    · exact hk
  | rnd x kk =>
    cases hexec
    refine (setV_draw_advance_onlyChanges s x _ 2).mono ?_
    rintro p (rfl | rfl | rfl)
    · exact rfl
    · exact nofun
    · exact .inl ⟨x, kk, rfl⟩
  | sneReg x y =>
    cases hflag : s.cfg.nineFlag with
    | keep =>
      cases (exec_sneReg_keep x y hflag).symm.trans hexec
      exact (s.advance_onlyChanges _).mono (mayChange_pc nofun)
    | havoc =>
      cases (exec_sneReg_havoc x y hflag).symm.trans hexec
      refine (advance_setV_draw_onlyChanges s _ 15 _).mono ?_
      rintro p (rfl | rfl | rfl)
      · exact nofun
      · exact ⟨rfl, hflag⟩
      · exact .inr ⟨⟨x, y, rfl⟩, hflag⟩
  | ldVK x =>
    cases hexec
    refine (s.setEngine_onlyChanges _).mono ?_
    rintro p rfl
    exact ⟨x, rfl⟩

end Sys2Proof.Machine
end

section
/-! The statements about one cycle (40_cycle.md R112 to R121, 60_exceptions.md R260). -/

namespace Sys2Proof.Machine

/-! ## How a cycle goes, by where it ends -/

/-- A cycle whose fetch faults ends there (R113, R114). -/
theorem step_of_raised {s t : State} (hrun : s.engine = .running) (hfetch : s.fetch = .raised t) :
    step s = .next t := by
  simp only [step, State.beginCycle, hrun, hfetch]

/-- At or above the ceiling (R113). -/
theorem step_of_ceiling {s : State} (hrun : s.engine = .running) (hpc : 0xFFF ≤ s.pc.toNat) :
    step s = .next (s.raise .pcOutOfBounds none none) :=
  step_of_raised hrun (s.fetch_eq.trans (if_pos hpc))

/-- One below the ceiling, where the second byte is missing (R114, decision D1). -/
theorem step_of_last {s : State} (hrun : s.engine = .running) (hpc : s.pc.toNat = 0xFFE) :
    step s = .next (s.raise .memOutOfBounds none (some 0xFFF)) :=
  step_of_raised hrun (s.fetch_eq.trans ((if_neg (by omega)).trans (if_pos hpc)))

/-- A word that is no instruction (R116): it is latched before the fault. -/
theorem step_of_unrecognized {s : State} (hrun : s.engine = .running) (hpc : s.pc.toNat < 0xFFE)
    (hd : decodeWord s.wordAtPc = .error (.unrecognized s.wordAtPc)) :
    step s = .next ((s.latch s.wordAtPc).raise .unrecognizedInstruction (some s.wordAtPc) none) := by
  have hfetch : s.fetch = .word s.wordAtPc := by rw [s.fetch_eq, if_neg (by omega), if_neg (by omega)]
  simp only [step, State.beginCycle, hrun, hfetch, hd]

/-- Settles O1: the words of the dispatch map, each decoded. -/
theorem decoderReadsWrittenWords : Obligations.DecoderReadsWrittenWords := by
  unfold Obligations.DecoderReadsWrittenWords
  and_intros <;> rfl

/-- Settles O6: the two bytes are the word at `pc`, and the cycle is the execution and the timer step. -/
theorem stepRunsTheDecodedInstruction : Obligations.StepRunsTheDecodedInstruction := by
  intro s t hi lo i hrun hpc hhi hlo hd hexec
  have hword : s.wordAtPc = joinBytes hi lo := by rw [State.wordAtPc, hhi, hlo, joinBytes]
  have hdecode : decodeWord (joinBytes hi lo) = .ok i := by
    rw [decodeBytes_join] at hd
    split at hd
    · next j hj =>
      cases hd
      exact hj
    · cases hd
  have habout : s.About i := (s.about_iff i).mpr ⟨hrun, by omega, hword ▸ hdecode⟩
  have hlatch : exec i (s.latch (joinBytes hi lo)) = .next t := hexec
  rw [step_of_about habout, hword, hlatch]
  rfl

/-- Settles O7: the bounds check comes before any read, and JP 0xFFF is an ordinary jump. -/
theorem fetchAtTheCeilingFaults : Obligations.FetchAtTheCeilingFaults :=
  ⟨fun _ hrun hpc => step_of_ceiling hrun hpc, fun s hrun => ⟨_, exec_jp 0xFFF#12 s, hrun, rfl⟩⟩

/-- Settles O8: the missing second byte, and the word that is no instruction. -/
theorem fetchAndDecodeFaults : Obligations.FetchAndDecodeFaults := by
  refine ⟨fun _ hrun hpc => step_of_last hrun hpc, ?_⟩
  rintro s w hrun hpc rfl hnone
  rcases decodeWord_spec s.wordAtPc with ⟨-, i, hd⟩ | ⟨-, hd⟩
  · exact absurd hd (hnone i)
  · exact step_of_unrecognized hrun hpc hd

/-- Settles O10: Faulted is not Running, so a step answers the state unchanged. -/
theorem faultedCyclesReportTheSameFault : Obligations.FaultedCyclesReportTheSameFault := by
  intro s f k hfault
  have hstopped : s.engine ≠ .running := by simp [hfault]
  exact ⟨run_of_step_self (step_of_not_running hstopped) k, by simp only [State.cycleResult, hfault]⟩

/-- The cycle about to execute `i` answers a next state. -/
theorem step_about_answers {s : State} {i : Instr} (h : s.About i) : ∃ t, step s = .next t := by
  obtain ⟨u, hexec, -⟩ := exec_outcome i (s := s.latch s.wordAtPc) rfl
  rw [step_of_about h, hexec]
  exact ⟨_, rfl⟩

/-- Settles O11: each end of a cycle is a next state. -/
theorem everyStepAnswersANextState : Obligations.EveryStepAnswersANextState := by
  intro s
  rcases step_cases s with ⟨-, h⟩ | ⟨-, -, h⟩ | ⟨-, -, h⟩ | ⟨-, -, -, h⟩ | ⟨i, habout, -⟩
  · exact ⟨_, h⟩
  · exact ⟨_, h⟩
  · exact ⟨_, h⟩
  · exact ⟨_, h⟩
  · exact step_about_answers habout

/-! ## Faults -/

/-- The records an instruction's own check can give (60_exceptions.md R253). -/
def State.OwnRecord (s : State) (f : FaultRecord) : Prop :=
  f = ⟨.stackUnderflow, s.pc, some s.wordAtPc, none⟩ ∨ f = ⟨.stackOverflow, s.pc, some s.wordAtPc, none⟩ ∨
    ∃ a, 4095 ≤ a ∧ f = ⟨.memOutOfBounds, s.pc, some s.wordAtPc, some a⟩

theorem accessFault_record {s : State} {n : Nat} {f : FaultRecord} (h : s.accessFault n = some f) :
    s.OwnRecord f := by
  unfold State.accessFault at h
  split at h <;> cases h
  exact .inr (.inr ⟨_, Nat.le_max_right _ _, rfl⟩)

theorem ownFault_record {s : State} {i : Instr} {f : FaultRecord} (h : ownFault s i = some f) :
    s.OwnRecord f := by
  cases i with
  | ret =>
    dsimp only [ownFault] at h
    split at h <;> cases h
    exact .inl rfl
  | call _ =>
    dsimp only [ownFault] at h
    split at h <;> cases h
    exact .inr (.inl rfl)
  | drw _ _ _ | ldB _ | ldMemV _ | ldVMem _ => exact accessFault_record h
  | _ => cases h

/-- The record of an instruction's own fault names the instruction's address. -/
theorem State.OwnRecord.pc_eq {s : State} {f : FaultRecord} (h : s.OwnRecord f) : f.pc = s.pc := by
  rcases h with rfl | rfl | ⟨a, -, rfl⟩ <;> rfl

/-- Latching a word changes no fault check: the checks read the word at `pc`. -/
theorem ownFault_latch (s : State) (w : Word) (i : Instr) : ownFault (s.latch w) i = ownFault s i := by
  cases i <;> rfl

/-- The engine of a Running state after an instruction that does not fault is not Faulted. -/
theorem engineAfter_ne_faulted {s : State} {i : Instr} (hrun : s.engine = .running) (f : FaultRecord) :
    engineAfter s i ≠ .faulted f := by
  cases i with
  | ldVK x => exact nofun
  | _ => exact fun h => nomatch hrun.symm.trans h

/-- The cycle about to execute `i` faults exactly as the instruction's own check says. -/
theorem step_about_faulted_iff {s t : State} {i : Instr} (h : s.About i) (hstep : step s = .next t)
    (f : FaultRecord) : t.engine = .faulted f ↔ ownFault s i = some f := by
  obtain ⟨u, -, ⟨-, hout⟩, hend⟩ := step_about_cases h hstep
  have hengine : t.engine = u.engine := by rcases hend with ⟨-, rfl⟩ | ⟨-, rfl⟩ <;> rfl
  rw [hengine, ← ownFault_latch s s.wordAtPc]
  rcases hout with ⟨hnone, hafter⟩ | ⟨g, hg, hu, -⟩
  · rw [hafter, hnone]
    exact iff_of_false (engineAfter_ne_faulted h.1 f) nofun
  · rw [hu, hg, Engine.faulted.injEq, Option.some.injEq]

/-- Settles O15: the order of the checks is the order in which a cycle can end. -/
theorem cycleTakesExactlyTheDueFault : Obligations.CycleTakesExactlyTheDueFault := by
  intro s hrun
  rw [s.dueFault_eq]
  by_cases hceiling : 0xFFF ≤ s.pc.toNat
  · exact ⟨_, step_of_ceiling hrun hceiling, fun f => by simp [hceiling]⟩
  by_cases hlast : s.pc.toNat = 0xFFE
  · exact ⟨_, step_of_last hrun hlast, fun f => by simp [hlast]⟩
  have hpc : s.pc.toNat < 0xFFE := by omega
  rw [if_neg hceiling, if_neg hlast]
  rcases decodeWord_spec s.wordAtPc with ⟨-, i, hd⟩ | ⟨-, hd⟩
  · have habout : s.About i := (s.about_iff i).mpr ⟨hrun, hpc, hd⟩
    obtain ⟨t, ht⟩ := step_about_answers habout
    refine ⟨t, ht, fun f => ?_⟩
    rw [hd]
    exact step_about_faulted_iff habout ht f
  · refine ⟨_, step_of_unrecognized hrun hpc hd, fun f => ?_⟩
    rw [hd]
    simp

/-- A Running cycle executes an instruction, or it ends before that in a fault whose record says what its kind may
say: only the control state and cur_word are written. -/
theorem about_or_raised_of_step {s t : State} (hrun : s.engine = .running) (hstep : step s = .next t) :
    (∃ i, s.About i) ∨ ∃ w k word addr, FaultRecord.WellFormed ⟨k, s.pc, word, addr⟩ ∧
      t = (s.latch w).raise k word addr := by
  rcases step_cases s with ⟨hstop, -⟩ | ⟨-, hpc, h⟩ | ⟨-, -, h⟩ | ⟨-, -, hillegal, h⟩ | ⟨i, habout, -⟩
  · exact absurd hrun hstop
  · cases h.symm.trans hstep
    exact .inr ⟨s.curWord, .pcOutOfBounds, none, none, ⟨rfl, rfl, hpc⟩, rfl⟩
  · cases h.symm.trans hstep
    exact .inr ⟨s.curWord, .memOutOfBounds, none, some 0xFFF, ⟨0xFFF, rfl, Nat.le_refl _⟩, rfl⟩
  · cases h.symm.trans hstep
    exact .inr ⟨_, .unrecognizedInstruction, some s.wordAtPc, none, ⟨rfl, s.wordAtPc, rfl, hillegal⟩, rfl⟩
  · exact .inl ⟨i, habout⟩

/-- Settles O14: a fault before `Execute` writes the control state and cur_word, and a faulting instruction keeps
what `KeepsAtFault` lists. -/
theorem faultsArePrecise : Obligations.FaultsArePrecise := by
  intro s t f hrun hstep hfault
  rcases about_or_raised_of_step hrun hstep with ⟨i, habout⟩ | ⟨w, k, word, addr, -, rfl⟩
  · have hpc := (ownFault_record ((step_about_faulted_iff habout hstep f).mp hfault)).pc_eq
    obtain ⟨u, -, ⟨hfixed, hout⟩, ⟨hu, rfl⟩ | ⟨-, rfl⟩⟩ := step_about_cases habout hstep
    · exact nomatch hu.symm.trans hfault
    · rcases hout with ⟨-, hafter⟩ | ⟨-, -, -, hkeeps⟩
      · exact absurd (hafter.symm.trans hfault) (engineAfter_ne_faulted hrun f)
      · exact ⟨hkeeps.pc, hpc, hkeeps.dt, hkeeps.st, hkeeps.i, hkeeps.stack, hfixed.keys⟩
  · cases hfault
    exact ⟨rfl, rfl, rfl, rfl, rfl, rfl, rfl⟩

/-- A Running cycle that executes: it stays Running, begins to wait by Fx0A, or faults (R111). -/
theorem engine_of_step_about {s t : State} {i : Instr} (h : s.About i) (hstep : step s = .next t) :
    t.engine = .running ∨ (∃ x, s.About (.ldVK x) ∧ t.engine = .awaitingKey x ∧ t.pc = s.pc) ∨
      ∃ f, t.engine = .faulted f := by
  obtain ⟨u, hexec, ⟨-, hout⟩, ⟨hu, rfl⟩ | ⟨hu, rfl⟩⟩ := step_about_cases h hstep
  · exact .inl hu
  · rcases hout with ⟨-, hafter⟩ | ⟨f, -, hf, -⟩
    · cases i with
      | ldVK x =>
        cases hexec
        exact .inr (.inl ⟨x, h, rfl, rfl⟩)
      | _ => exact absurd (hafter.trans h.1) hu
    · exact .inr (.inr ⟨f, hf⟩)

/-- Settles O13: outside Running nothing happens; a Running cycle faults early or executes. -/
theorem engineTransitionsOfACycle : Obligations.EngineTransitionsOfACycle := by
  intro s t hstep
  cases hengine : s.engine with
  | awaitingKey x =>
    cases (step_of_not_running (s := s) (by simp [hengine])).symm.trans hstep
    exact hengine
  | faulted f =>
    cases (step_of_not_running (s := s) (by simp [hengine])).symm.trans hstep
    exact hengine
  | running =>
    rcases about_or_raised_of_step hengine hstep with ⟨i, habout⟩ | ⟨w, k, word, addr, -, rfl⟩
    · exact engine_of_step_about habout hstep
    · exact .inr (.inr ⟨_, rfl⟩)

end Sys2Proof.Machine
end

section
/-! The statements about the end states of a run (40_cycle.md R131 (c), (d)): a state that a cycle leaves as it was but
for the timers, which count down. -/

namespace Sys2Proof.Machine

/-- One cycle of a countdown: the timers tick, and nothing but the timers and the parts in `P` changes. -/
structure CountsDown (P : Part → Prop) (s t : State) : Prop where
  answers : step s = .next t
  dt : t.dt = timerTick s.dt
  st : t.st = timerTick s.st
  frame : OnlyChanges s t P

/-- Where every state of a set counts down into the set, so does every run from it. -/
theorem run_countsDown {I : State → Prop} {P : Part → Prop}
    (hcycle : ∀ s, I s → ∃ t, I t ∧ CountsDown P s t) :
    ∀ (k : Nat) (s : State), I s → ∃ t, core.run k s = .next t ∧ I t ∧
      t.dt.toNat = s.dt.toNat - k ∧ t.st.toNat = s.st.toNat - k ∧ OnlyChanges s t P
  | 0, s, hs => ⟨s, rfl, hs, rfl, rfl, .refl s P⟩
  | k + 1, s, hs => by
    obtain ⟨u, hu, hstep, hdt, hst, hframe⟩ := hcycle s hs
    obtain ⟨t, hrun, ht, hdt', hst', hframe'⟩ := run_countsDown hcycle k u hu
    refine ⟨t, (run_succ_of_step hstep k).trans hrun, ht, ?_, ?_,
      (hframe.trans hframe').mono fun _ => or_self_iff.mp⟩
    · rw [hdt', hdt, timerTick_toNat, Nat.sub_sub, Nat.add_comm]
    · rw [hst', hst, timerTick_toNat, Nat.sub_sub, Nat.add_comm]

/-- About to execute `i` depends on the control state, `pc` and memory only. -/
theorem State.About.congr {s t : State} {i : Instr} (h : s.About i) (hengine : t.engine = s.engine)
    (hpc : t.pc = s.pc) (hmem : t.mem = s.mem) : t.About i := by
  unfold State.About State.wordAtPc at *
  rwa [hengine, hpc, hmem]

/-- The cycle of an instruction that leaves the engine Running ends in the timer step. -/
theorem step_of_about_running {s t : State} {i : Instr} (h : s.About i)
    (hexec : exec i (s.latch s.wordAtPc) = .next t) (hrun : t.engine = .running) : step s = .next t.tickTimers := by
  rw [step_of_about h, hexec, finishCycle_running hrun]

/-- The cycle of a jump to itself. -/
theorem jumpsToSelf_countsDown {s : State} (h : s.JumpsToSelf) :
    ∃ t, t.JumpsToSelf ∧ CountsDown (fun p => p = .dt ∨ p = .st ∨ p = .curWord) s t := by
  obtain ⟨nnn, habout, hself⟩ := h
  have hpc : (zextAddr nnn : PcWord) = s.pc :=
    BitVec.eq_of_toNat_eq ((zextAddr_toNat nnn (by decide)).trans hself)
  have hexec := exec_jp nnn (s.latch s.wordAtPc)
  rw [hpc] at hexec
  refine ⟨((s.latch s.wordAtPc).setPc s.pc).tickTimers, ⟨nnn, habout.congr rfl rfl rfl, hself⟩,
    step_of_about_running habout hexec habout.1, rfl, rfl, ?_⟩
  refine (((s.latch_onlyChanges _).trans (State.setPc_onlyChanges _ s.pc)).trans
    (State.tickTimers_onlyChanges _)).narrow ?_
  rintro p ((rfl | rfl) | rfl | rfl)
  · exact .inl (.inr (.inr rfl))
  · exact .inr rfl
  · exact .inl (.inl rfl)
  · exact .inl (.inr (.inl rfl))

/-- Settles O58: the jump to itself is a countdown. -/
theorem jumpToSelfOnlyCountsDown : Obligations.JumpToSelfOnlyCountsDown := by
  intro s k h
  obtain ⟨t, hrun, -, hdt, hst, hframe⟩ := run_countsDown (fun _ => jumpsToSelf_countsDown) k s h
  exact ⟨t, hrun, hdt, hst, hframe⟩

/-! ## The stall of 9xyn -/

/-- What the flag of 9xyn does not touch. -/
theorem State.nineFlag_keeps (s : State) : s.nineFlag.engine = s.engine ∧ s.nineFlag.pc = s.pc ∧
    s.nineFlag.mem = s.mem ∧ s.nineFlag.cfg = s.cfg ∧ s.nineFlag.dt = s.dt ∧ s.nineFlag.st = s.st := by
  unfold State.nineFlag
  split <;> exact ⟨rfl, rfl, rfl, rfl, rfl, rfl⟩

theorem State.nineFlag_onlyChanges (s : State) : OnlyChanges s s.nineFlag
    (fun p => s.cfg.nineFlag = .havoc ∧ (p = .reg 15 ∨ p = .draws)) := by
  cases h : s.cfg.nineFlag with
  | havoc =>
    simp only [State.nineFlag, h]
    exact ((s.setV_onlyChanges 15 _).trans (State.draw_onlyChanges _)).mono fun _ hp => ⟨trivial, hp⟩
  | keep =>
    simp only [State.nineFlag, h]
    exact .refl s _

/-- Where VF is kept, or the operands are one register or other registers than VF, the flag leaves equal operands
equal (log 17). -/
theorem State.nineFlag_operands {s : State} {x y : Reg} (heq : s.getV x = s.getV y)
    (h : s.cfg.nineFlag = .keep ∨ x = y ∨ (x ≠ 15 ∧ y ≠ 15)) : s.nineFlag.getV x = s.nineFlag.getV y := by
  have hkept : ∀ r : Reg, s.cfg.nineFlag = .keep ∨ r ≠ 15 → s.nineFlag.getV r = s.getV r := by
    intro r hr
    refine (s.nineFlag_onlyChanges (.reg r)).resolve_left ?_
    rintro ⟨hhavoc, hflag | hdraws⟩
    · exact hr.elim (fun hkeep => nomatch hhavoc.symm.trans hkeep) fun hne => hne (Part.reg.inj hflag)
    · exact nomatch hdraws
  rcases h with hkeep | rfl | ⟨hx, hy⟩
  · rw [hkept x (.inl hkeep), hkept y (.inl hkeep), heq]
  · rfl
  · rw [hkept x (.inr hx), hkept y (.inr hy), heq]

theorem State.advance_zero (s : State) : s.advance 0 = s := by
  simp [State.advance]

/-- At a stalled 9xyn the advance is by 0, so the instruction is its flag alone. -/
theorem exec_sneReg_of_stalls {s : State} {x y : Reg} (h : s.StallsAtNine x y) (w : Word) :
    exec (.sneReg x y) (s.latch w) = .next (s.latch w).nineFlag := by
  obtain ⟨-, hmode, heq⟩ := h
  simp only [exec, execSneReg, State.latch_cfg, State.latch_getV, hmode, heq, bne_self_eq_false, nineAdvance,
    Bool.false_eq_true, if_false, State.advance_zero]

/-- What a stalled 9xyn may change in a cycle, by the flag mode. -/
def NineStallParts (mode : NineFlag) (p : Part) : Prop :=
  p = .dt ∨ p = .st ∨ p = .curWord ∨ (mode = .havoc ∧ (p = .reg 15 ∨ p = .draws))

/-- The cycle of a stalled 9xyn. -/
theorem stallsAtNine_countsDown {s : State} {x y : Reg} (h : s.StallsAtNine x y)
    (hop : s.cfg.nineFlag = .keep ∨ x = y ∨ (x ≠ 15 ∧ y ≠ 15)) :
    ∃ t, (t.StallsAtNine x y ∧ t.cfg.nineFlag = s.cfg.nineFlag) ∧
      CountsDown (NineStallParts s.cfg.nineFlag) s t := by
  have hexec := exec_sneReg_of_stalls h s.wordAtPc
  obtain ⟨habout, hmode, heq⟩ := h
  have hframe := (s.latch s.wordAtPc).nineFlag_onlyChanges
  have hoperands := State.nineFlag_operands (s := s.latch s.wordAtPc) heq hop
  obtain ⟨hengine, hpc, hmem, hcfg, hdt, hst⟩ := (s.latch s.wordAtPc).nineFlag_keeps
  refine ⟨(s.latch s.wordAtPc).nineFlag.tickTimers,
    ⟨⟨habout.congr hengine hpc hmem, hcfg ▸ hmode, hoperands⟩, congrArg Config.nineFlag hcfg⟩,
    step_of_about_running habout hexec (hengine.trans habout.1), congrArg timerTick hdt, congrArg timerTick hst, ?_⟩
  refine (((s.latch_onlyChanges _).trans hframe).trans (State.tickTimers_onlyChanges _)).mono ?_
  rintro p ((hword | hflag) | hdt | hst)
  · exact .inr (.inr (.inl hword))
  · exact .inr (.inr (.inr hflag))
  · exact .inl hdt
  · exact .inr (.inl hst)

/-- Settles O59: the stall is a countdown, in which the flag mode stays as it is. -/
theorem equalFamilyNineStalls : Obligations.EqualFamilyNineStalls := by
  intro s x y k hstall hop
  have hcycle : ∀ u, u.StallsAtNine x y ∧ u.cfg.nineFlag = s.cfg.nineFlag → ∃ t,
      (t.StallsAtNine x y ∧ t.cfg.nineFlag = s.cfg.nineFlag) ∧ CountsDown (NineStallParts s.cfg.nineFlag) u t :=
    fun u ⟨hu, hmode⟩ => hmode ▸ stallsAtNine_countsDown hu (hmode ▸ hop)
  obtain ⟨t, hrun, ⟨ht, -⟩, hdt, hst, hframe⟩ := run_countsDown hcycle k s ⟨hstall, rfl⟩
  exact ⟨t, hrun, ht, hdt, hst, hframe⟩

end Sys2Proof.Machine
end

section
/-! The invariant (10_state.md R27 to R40): it holds after construction, and every cycle and every other operation of
the driver keeps it. What an instruction does is said part by part: memory and display, the stack, `pc`. -/

namespace Sys2Proof.Machine

/-! ## Memory and display -/

/-- The clauses of the invariant about memory and the display. -/
structure State.Sound (s : State) : Prop where
  mem : s.mem.wf = true
  colour : s.ColourInStep

section Sound
variable {s t : State}

theorem raiseMemory_sound {addr j : Nat} {landed : Nat → State} (h : ∀ k ≤ j, (landed k).Sound)
    (hraise : raiseMemory addr j landed s = .next t) : t.Sound := by
  obtain ⟨k, hk, hraise'⟩ := raiseMemory_answers addr j landed s
  cases hraise'.symm.trans hraise
  exact ⟨(h k hk).mem, (h k hk).colour⟩

theorem memWriteBytes_sound {a : Nat} {bs : List Byte} (h : s.Sound) (hfits : bs = [] ∨ a + bs.length ≤ 4095) :
    (s.memWriteBytes a bs).Sound := ⟨Mem.wf_writeBytes bs hfits h.mem, h.colour⟩

theorem storeAtI_sound {bs : List Byte} (h : s.Sound) (hstore : storeAtI bs s = .next t) : t.Sound := by
  by_cases hfits : bs.length = 0 ∨ s.base + bs.length ≤ 4095
  · cases (storeAtI_fits hfits).symm.trans hstore
    have := memWriteBytes_sound h (hfits.imp_left List.length_eq_zero_iff.mp)
    exact ⟨this.mem, this.colour⟩
  · refine raiseMemory_sound (fun k hk => memWriteBytes_sound h ?_) ((storeAtI_past hfits).symm.trans hstore)
    rcases Nat.eq_zero_or_pos k with rfl | hpos
    · exact .inl (List.take_zero)
    · have := List.length_take_le k bs
      exact .inr (by omega)

theorem loadRegs_sound (h : s.Sound) (n : Nat) : (s.loadRegs n).Sound := by
  obtain ⟨v, hv⟩ := s.loadRegs_only n
  rw [hv]
  exact ⟨h.mem, h.colour⟩

theorem ldVMem_sound {x : Reg} (h : s.Sound) (hexec : exec (.ldVMem x) s = .next t) : t.Sound := by
  rcases Nat.lt_or_ge 4095 (s.i.toNat + (x.val + 1)) with hpast | hfits
  · exact raiseMemory_sound (fun k _ => loadRegs_sound h k) ((exec_ldVMem_past hpast).symm.trans hexec)
  · cases (exec_ldVMem_fits hfits).symm.trans hexec
    have := loadRegs_sound h (x.val + 1)
    exact ⟨this.mem, this.colour⟩

theorem sprite_sound (h : s.Sound) (x y : Reg) (n : Nat) (b : Byte) : ((s.sprite x y n).1.setV 15 b).Sound := by
  obtain ⟨-, -, hmem, -⟩ := sprite_keeps s x y n
  exact ⟨(congrArg Mem.wf hmem).trans h.mem, colourInStep_drawRows _ _ h.colour n⟩

theorem drw_sound {x y : Reg} {n : Fin 16} (h : s.Sound) (hexec : exec (.drw x y n) s = .next t) : t.Sound := by
  by_cases hfits : n.val = 0 ∨ s.i.toNat + n.val ≤ 4095
  · cases (exec_drw_fits hfits).symm.trans hexec
    have := sprite_sound h x y n.val (flagByte (s.sprite x y n.val).2)
    exact ⟨this.mem, this.colour⟩
  · obtain ⟨hn, hpast⟩ := not_or.mp hfits
    exact raiseMemory_sound (fun k _ => sprite_sound h x y k _)
      ((exec_drw_past hn (Nat.not_le.mp hpast)).symm.trans hexec)

theorem cls_sound (h : s.Sound) (hexec : exec .cls s = .next t) : t.Sound := by
  cases hexec
  refine ⟨h.mem, fun k => ?_⟩
  rw [State.advance_colorAt, State.advance_pixel, State.colorAt_clearDisplay, State.pixel_clearDisplay]
  rfl

/-- Every instruction keeps memory canonical and the colour buffer in step: RET, CALL and 9xyn by the branch they
take, and those not named touch neither. -/
theorem exec_sound {i : Instr} (h : s.Sound) (hexec : exec i s = .next t) : t.Sound := by
  cases i with
  | cls => exact cls_sound h hexec
  | drw x y n => exact drw_sound h hexec
  | ldB x | ldMemV x => exact storeAtI_sound h hexec
  | ldVMem x => exact ldVMem_sound h hexec
  | ret =>
    dsimp only [exec, execRet] at hexec
    split at hexec <;> cases hexec <;> exact ⟨h.mem, h.colour⟩
  | call nnn =>
    dsimp only [exec, execCall] at hexec
    split at hexec <;> cases hexec <;> exact ⟨h.mem, h.colour⟩
  | sneReg x y =>
    cases hexec
    unfold State.nineFlag
    split <;> exact ⟨h.mem, h.colour⟩
  | _ => cases hexec; exact ⟨h.mem, h.colour⟩

end Sound

/-! ## Stack and `pc` -/

section StackAndPc
variable {s t : State} {i : Instr}

/-- What an instruction that completes can do to the stack: nothing, a pop, or a push of its own address where the
stack has room (10_state.md R30, R31). -/
theorem exec_stack_cases (hexec : exec i s = .next t) (hsafe : t.Safe) : t.stack = s.stack ∨
    (∃ v, s.stack = t.stack ++ [v]) ∨
    (t.stack = s.stack ++ [s.pc] ∧ s.cfg.stackCapacity ≠ some s.stack.length) := by
  by_cases hsame : t.stack = s.stack
  · exact .inl hsame
  right
  rcases (exec_timersAndStack hexec).stack hsame with rfl | ⟨nnn, rfl⟩
  · obtain ⟨rest, v, hstack, rfl⟩ := ret_completes hexec hsafe
    exact .inl ⟨v, hstack⟩
  · obtain ⟨hroom, rfl⟩ := call_completes hexec hsafe
    exact .inr ⟨rfl, hroom⟩

theorem pc_add_le {pc : PcWord} {n : Nat} (h : pc.toNat + n ≤ 0x10FE) :
    (pc + BitVec.ofNat 16 n).toNat ≤ 0x10FE := by
  have h16 : (pc + BitVec.ofNat 16 n).toNat = (pc.toNat + n) % 2 ^ 16 := by
    rw [BitVec.toNat_add, BitVec.toNat_ofNat, Nat.add_mod_mod]
  omega

theorem nineAdvance_le (mode : NineSkipMode) (differ : Bool) : nineAdvance mode differ ≤ 4 := by
  cases mode <;> cases differ <;> decide

/-- Where an instruction that completes can go: at most to 0x10FE, the largest target of a `JP V0`
(10_state.md R27). -/
theorem exec_pc_le (hpc : s.pc.toNat < 0xFFE) (hstack : ∀ v ∈ s.stack, v.toNat < 0xFFF)
    (hexec : exec i s = .next t) (hsafe : t.Safe) : t.pc.toNat ≤ 0x10FE := by
  have hnext : (s.pc + 2#16).toNat ≤ 0x10FE := pc_add_le (by omega)
  cases i with
  | jp nnn =>
    cases hexec
    have := nnn.isLt
    rw [State.setPc_pc, zextAddr_toNat nnn (by decide)]
    omega
  | jpV0 nnn =>
    cases hexec
    have := nnn.isLt
    have := (s.getV 0).isLt
    rw [State.setPc_pc, zextByte_add_zextAddr_toNat]
    omega
  | call nnn =>
    obtain ⟨-, rfl⟩ := call_completes hexec hsafe
    have := nnn.isLt
    rw [State.setPc_pc, zextAddr_toNat nnn (by decide)]
    omega
  | ret =>
    obtain ⟨rest, v, hlast, rfl⟩ := ret_completes hexec hsafe
    have := hstack v (by simp [hlast])
    exact pc_add_le (by omega)
  | seImm _ _ | sneImm _ _ | seReg _ _ | skp _ | sknp _ =>
    cases hexec
    exact pc_add_le (by split <;> omega)
  | sneReg x y =>
    cases hexec
    rw [(State.nineFlag_keeps _).2.1]
    have := nineAdvance_le s.cfg.nineSkipMode (s.getV x != s.getV y)
    exact pc_add_le (by omega)
  | drw x y n =>
    obtain rfl := drw_completes hexec hsafe
    rw [State.advance_pc, State.setV_pc, (sprite_keeps ..).1]
    exact hnext
  | ldB x | ldMemV x =>
    obtain rfl := storeAtI_completes hexec hsafe
    exact hnext
  | ldVMem x =>
    obtain rfl := ldVMem_completes hexec hsafe
    rw [State.advance_pc, s.loadRegs_pc]
    exact hnext
  | ldVK x => cases hexec; exact hpc.le.trans (by decide)
  | _ => cases hexec; exact hnext

end StackAndPc

/-! ## The invariant -/

/-- The record of an instruction's own fault says what its kind may say (60_exceptions.md R253). -/
theorem State.OwnRecord.wellFormed {s : State} {f : FaultRecord} (h : s.OwnRecord f) : f.WellFormed := by
  rcases h with rfl | rfl | ⟨a, ha, rfl⟩
  · exact ⟨rfl, rfl⟩
  · exact ⟨rfl, rfl⟩
  · exact ⟨a, rfl, ha⟩

theorem Inv.sound {s : State} (h : Inv s) : s.Sound := ⟨h.memCanonical, h.colourInStep⟩

/-- The parts that the invariant does not speak of may take any value. -/
theorem Inv.free {s : State} (h : Inv s) (v : Vector Byte params.numV) (i : IWord) (dt st : Timer)
    (keys : Vector Bool params.numKeys) (w : Word) (n : Nat) :
    Inv { s with v := v, i := i, dt := dt, st := st, keys := keys, curWord := w, draws := n } :=
  ⟨h.memCanonical, h.colourInStep, h.pcInRange, h.returnsFetchable, h.waitFetchable, h.stackWithin, h.recordSays⟩

theorem Inv.latch {s : State} (h : Inv s) (w : Word) : Inv (s.latch w) :=
  h.free s.v s.i s.dt s.st s.keys w s.draws

theorem Inv.tickTimers {s : State} (h : Inv s) : Inv s.tickTimers :=
  h.free s.v s.i _ _ s.keys s.curWord s.draws

/-- Taking a fault keeps the invariant if the record is well formed. -/
theorem Inv.raise {s : State} (h : Inv s) {k : Fault} {w : Option Word} {a : Option Nat}
    (hrecord : FaultRecord.WellFormed ⟨k, s.pc, w, a⟩) : Inv (s.raise k w a) where
  memCanonical := h.memCanonical
  colourInStep := h.colourInStep
  pcInRange := h.pcInRange
  returnsFetchable := h.returnsFetchable
  waitFetchable _ hx := nomatch hx
  stackWithin := h.stackWithin
  recordSays f hf := by
    cases hf
    exact hrecord

/-- Only Fx0A begins a wait, and it keeps `pc`. -/
theorem pc_of_wait_begun {i : Instr} {s t : State} {x : Reg} (hrun : s.engine = .running)
    (hexec : exec i s = .next t) (hafter : t.engine = engineAfter s i) (hwait : t.engine = .awaitingKey x) :
    t.pc = s.pc := by
  cases i with
  | ldVK y => cases hexec; rfl
  | _ => exact nomatch (hrun.symm.trans hafter.symm).trans hwait

/-- An instruction of a Running engine that was fetched keeps the invariant. -/
theorem exec_inv {i : Instr} {s t : State} (h : Inv s) (hrun : s.engine = .running) (hpc : s.pc.toNat < 0xFFE)
    (hword : s.curWord = s.wordAtPc) (hexec : exec i s = .next t) : Inv t := by
  obtain ⟨u, hu, hfixed, hout⟩ := exec_outcome i hword
  cases hu.symm.trans hexec
  have hsound := exec_sound h.sound hexec
  rcases hout with ⟨-, hafter⟩ | ⟨f, hf, hengine, hkeeps⟩
  · have hsafe : t.Safe := fun f hf => engineAfter_ne_faulted hrun f (hafter.symm.trans hf)
    have hstack := exec_stack_cases hexec hsafe
    exact {
      memCanonical := hsound.mem
      colourInStep := hsound.colour
      pcInRange := exec_pc_le hpc h.returnsFetchable hexec hsafe
      returnsFetchable := fun v hv => by
        rcases hstack with hsame | ⟨w, hpop⟩ | ⟨hpush, -⟩
        · exact h.returnsFetchable v (hsame ▸ hv)
        · exact h.returnsFetchable v (hpop ▸ List.mem_append_left _ hv)
        · rcases List.mem_append.mp (hpush ▸ hv) with hold | hnew
          · exact h.returnsFetchable v hold
          · rw [List.mem_singleton.mp hnew]
            exact hpc.trans (by decide)
      waitFetchable := fun x hx => by
        rw [pc_of_wait_begun hrun hexec hafter hx]
        exact hpc.trans (by decide)
      stackWithin := fun n hn => by
        have hcap : s.cfg.stackCapacity = some n := hfixed.cfg ▸ hn
        have hle := h.stackWithin n hcap
        rcases hstack with hsame | ⟨w, hpop⟩ | ⟨hpush, hroom⟩
        · rwa [hsame]
        · rw [hpop, List.length_append] at hle
          omega
        · have hne : n ≠ s.stack.length := fun e => hroom (e ▸ hcap)
          rw [hpush, List.length_append, List.length_singleton]
          omega
      recordSays := fun f hf => absurd hf (hsafe f) }
  · exact {
      memCanonical := hsound.mem
      colourInStep := hsound.colour
      pcInRange := hkeeps.pc ▸ h.pcInRange
      returnsFetchable := hkeeps.stack ▸ h.returnsFetchable
      waitFetchable := fun x hx => nomatch hengine.symm.trans hx
      stackWithin := fun n hn => hkeeps.stack ▸ h.stackWithin n (hfixed.cfg ▸ hn)
      recordSays := fun g hg => by
        cases hengine.symm.trans hg
        exact (ownFault_record hf).wellFormed }

/-- Settles O54: a cycle answers the state itself, the state after the instruction and the timer step, or a fault
taken before `Execute`. -/
theorem stepKeepsTheInvariant : Obligations.StepKeepsTheInvariant := by
  intro s t h hstep
  by_cases hrun : s.engine = .running
  · rcases about_or_raised_of_step hrun hstep with ⟨i, habout⟩ | ⟨w, k, word, addr, hrecord, rfl⟩
    · obtain ⟨-, hpc, -⟩ := (s.about_iff i).mp habout
      obtain ⟨u, hexec, -, hend⟩ := step_about_cases habout hstep
      have hu : Inv u := exec_inv (s := s.latch s.wordAtPc) (h.latch _) hrun hpc rfl hexec
      rcases hend with ⟨-, rfl⟩ | ⟨-, rfl⟩
      · exact hu.tickTimers
      · exact hu
    · exact (h.latch w).raise hrecord
  · cases (step_of_not_running hrun).symm.trans hstep
    exact h

end Sys2Proof.Machine
end

section
/-! The statements about construction (70_reset_and_hazards.md), and the invariant under the driver. -/

namespace Sys2Proof.Machine

theorem construct_fits (c : Config) (l : Launch) {image : List Byte} (d : Nat) (h : image.length ≤ 3583) :
    construct c l image d = .next (launch c l image d) := if_neg (Nat.not_lt.mpr h)

theorem construct_too_long (c : Config) (l : Launch) {image : List Byte} (d : Nat) (h : 3583 < image.length) :
    construct c l image d = .refused .imageTooLong := if_pos h

/-- The length of a font, as a numeral. -/
theorem font_length (l : Launch) : l.font.toList.length = 80 := l.font.length_toList

/-! Memory after construction, region by region: the last writer of an address is the image, the font or neither. -/

section InitialMem
variable (l : Launch) (image : List Byte)

theorem initialMem_image (j : Nat) (h : j < image.length) : (initialMem l image).read (0x200 + j) = image[j] :=
  Mem.read_writeBytes_in image _ 0x200 j h

theorem initialMem_below_image {a : Nat} (h : a < 0x200 ∨ 0x200 + image.length ≤ a) :
    (initialMem l image).read a = ((Mem.ofCells l.initMem).writeBytes 0 l.font.toList).read a :=
  Mem.read_writeBytes_out image _ 0x200 a h

theorem initialMem_font (j : Fin 80) : (initialMem l image).read j.val = l.font.get j := by
  have hj : j.val < l.font.toList.length := (font_length l).symm ▸ j.isLt
  have hread := Mem.read_writeBytes_in l.font.toList (Mem.ofCells l.initMem) 0 j.val hj
  rw [Nat.zero_add] at hread
  rw [initialMem_below_image l image (.inl (by omega)), hread, Vector.getElem_toList]
  rfl

theorem initialMem_rest {a : Nat} (hfont : 80 ≤ a) (hmem : a < 4095) (h : a < 0x200 ∨ 0x200 + image.length ≤ a) :
    (initialMem l image).read a = Mem.read l.initMem a := by
  rw [initialMem_below_image l image h, Mem.read_writeBytes_out _ _ _ _ (.inr (by rw [font_length]; omega)),
    Mem.read_ofCells hmem]

end InitialMem

/-- Settles O51: the three regions. -/
theorem constructionLaysOutMemory : Obligations.ConstructionLaysOutMemory :=
  fun c l image d h => ⟨_, construct_fits c l d h, initialMem_image l image, initialMem_font l image,
    fun _ hfont hmem => initialMem_rest l image hfont hmem⟩

/-- Bytes equal to what empty memory reads as leave it empty. -/
theorem Mem.writeBytes_background (bs : List Byte) :
    ∀ a, (∀ (j : Nat) (h : j < bs.length), bs[j] = background (a + j)) → Mem.writeBytes [] a bs = [] := by
  induction bs with
  | nil => exact fun _ _ => rfl
  | cons b bs ih =>
    intro a h
    have hb : b = background a := h 0 (Nat.succ_pos _)
    have hfirst : Mem.write [] a b = [] := if_pos hb
    rw [Mem.writeBytes, hfirst]
    refine ih (a + 1) fun j hj => ?_
    rw [Nat.add_assoc, Nat.add_comm 1 j]
    exact h (j + 1) (Nat.succ_lt_succ hj)

/-- The runner's memory holds the default font and zeros, which is what no cell at all reads as. -/
theorem initialMem_runner : initialMem runner [] = [] := by
  have hfont : ∀ (j : Nat) (h : j < runner.font.toList.length),
      runner.font.toList[j] = background (params.fontBase + j) := by
    intro j h
    rw [Vector.getElem_toList]
    simp [runner, background]
  have hcells : Mem.ofCells runner.initMem = [] := rfl
  rw [initialMem, hcells, Mem.writeBytes_background _ _ hfont, Mem.writeBytes]

/-- Settles O52: the launch state field by field, the loader error, and the runner's launch values. -/
theorem constructionSetsTheMachine : Obligations.ConstructionSetsTheMachine := by
  refine ⟨fun c l image d h => ?_, fun c l image d h => construct_too_long c l d h, ?_⟩
  · refine ⟨_, construct_fits c l d h, rfl, rfl, rfl, rfl, rfl, rfl, rfl, rfl, fun k => ⟨?_, ?_⟩, rfl⟩
    · simp [launch, State.pixel, Vector.get_eq_getElem]
    · simp [launch, State.colorAt, Vector.get_eq_getElem, colorOf]
  · rw [construct_fits hardware runner 0 (Nat.zero_le _), launch, initialMem_runner]
    rfl

/-- Every machine that is built meets the invariant. -/
theorem launch_inv (c : Config) (l : Launch) {image : List Byte} (d : Nat) (h : image.length ≤ 3583) :
    Inv (launch c l image d) where
  memCanonical := by
    refine Mem.wf_writeBytes image (.inr (show 0x200 + image.length ≤ 4095 by omega)) ?_
    refine Mem.wf_writeBytes l.font.toList (.inr ?_) (Mem.wf_ofCells l.initMem)
    rw [font_length]
    decide
  colourInStep k := by simp [launch, State.colorAt, State.pixel, Vector.get_eq_getElem, colorOf]
  pcInRange := show (0x200#16).toNat ≤ 0x10FE by decide
  returnsFetchable := nofun
  waitFetchable _ hx := nomatch hx
  stackWithin n _ := Nat.zero_le n
  recordSays _ hf := nomatch hf

theorem construct_inv {c : Config} {l : Launch} {image : List Byte} {d : Nat} {t : State}
    (h : construct c l image d = .next t) : Inv t := by
  rcases Nat.lt_or_ge 3583 image.length with hlong | hfits
  · exact nomatch (construct_too_long c l d hlong).symm.trans h
  · cases (construct_fits c l d hfits).symm.trans h
    exact launch_inv c l d hfits

/-- Settles O53: the state after reset is a machine that is built. -/
theorem resetMeetsTheInvariant : Obligations.ResetMeetsTheInvariant :=
  construct_inv constructionSetsTheMachine.2.2

theorem Inv.setKey {s : State} (h : Inv s) (k : Key) (held : Bool) : Inv (s.setKey k held) :=
  h.free s.v s.i s.dt s.st _ s.curWord s.draws

theorem Inv.disasmResetPc {s : State} (h : Inv s) : Inv s.disasmResetPc where
  memCanonical := h.memCanonical
  colourInStep := h.colourInStep
  pcInRange := show (0x200#16).toNat ≤ 0x10FE by decide
  returnsFetchable := h.returnsFetchable
  waitFetchable _ _ := show (0x200#16).toNat < 0xFFF by decide
  stackWithin := h.stackWithin
  recordSays := h.recordSays

/-- A Running engine at any `pc` in range keeps the rest of the invariant. -/
theorem Inv.resume {s : State} (h : Inv s) (x : Reg) (b : Byte) {pc : PcWord} (hpc : pc.toNat ≤ 0x10FE) :
    Inv (((s.setV x b).setEngine .running).setPc pc) where
  memCanonical := h.memCanonical
  colourInStep := h.colourInStep
  pcInRange := hpc
  returnsFetchable := h.returnsFetchable
  waitFetchable _ hx := nomatch hx
  stackWithin := h.stackWithin
  recordSays _ hf := nomatch hf

/-- A delivery keeps the invariant: the wait was at a fetchable `pc`, so the next word's address is in range. -/
theorem Inv.deliverKey {s : State} (h : Inv s) (k : Key) : Inv (s.deliverKey k) := by
  unfold State.deliverKey
  split
  · next x hx =>
    have hpc : s.pc.toNat < 0xFFF := h.waitFetchable x hx
    split
    · exact h.resume x _ (pc_add_le (pc := s.pc) (n := 2) (by omega))
    · exact h.resume x _ h.pcInRange
  · exact h
  · exact h

/-- Settles O55: each of the driver's operations, and construction. -/
theorem driverKeepsTheInvariant : Obligations.DriverKeepsTheInvariant := by
  refine ⟨fun op s t h happly => ?_, fun c l image d t => construct_inv⟩
  cases op with
  | cycle => exact stepKeepsTheInvariant s t h happly
  | setKey k held => cases happly; exact h.setKey k held
  | deliverKey k => cases happly; exact h.deliverKey k
  | disasmResetPc => cases happly; exact h.disasmResetPc
  | reconstruct l image => exact construct_inv happly

end Sys2Proof.Machine
end
